-- ==== Sys2Proof/Word.lean ====
section
/-!
DEFINITION. The machine's bit-vector types. Every register value is an unsigned integer of its stated width
(00_scope R10); bit 0 is the least significant bit (R9).
-/

namespace Sys2Proof

/-- One RAM byte or one general register (10_state R20, 20_memory R60). -/
abbrev Byte := BitVec 8

/-- A 16-bit word: an instruction, an address register, the key latch (00_scope glossary "Word"). -/
abbrev Word := BitVec 16

/-- A register number 0 to 15, the `x` or `y` field of an instruction (30_encoding R91, R94). -/
abbrev Reg := BitVec 4

/-- A 12-bit address immediate, the `nnn` field (30_encoding R91). -/
abbrev Addr12 := BitVec 12

/-- One row of the framebuffer, 64 one-bit pixels: column `px` is bit `px` (10_state R39). -/
abbrev PixelRow := BitVec 64

/-- The framebuffer: 32 rows of 64 one-bit pixels, in row-major order (10_state R39). -/
abbrev Pixels := Vector PixelRow 32

end Sys2Proof
end

