-- ==== Sys2Proof/Machine/Flags.lean ====
section
/-!
DEFINITION. Register arithmetic, computed over the integers and then reduced modulo 256 (00_scope R10, 41 R140), and
what each instruction writes to `VF` (10_state R45).
-/

namespace Sys2Proof.Machine

/-- A flag value: all 8 bits of `VF` become 0 or 1 (10_state R21, R45). -/
def flagOf (c : Bool) : Byte := if c then 1 else 0

/-- `(a + b) mod 256` (41 R143, R148). -/
def addMod (a b : Byte) : Byte := BitVec.ofNat 8 (a.toNat + b.toNat)

/-- `(a - b) mod 256`, the mathematical residue (00_scope R10, 41 R149). -/
def subMod (a b : Byte) : Byte := BitVec.ofInt 8 ((a.toNat : Int) - (b.toNat : Int))

/-- The carry of `ADD Vx,Vy`: 1 if `a + b > 255` (41 R148). -/
def carryFlag (a b : Byte) : Byte := flagOf (decide (255 < a.toNat + b.toNat))

/-- The not-borrow of `a - b`: 1 if `a >= b`, unsigned (41 R149, R151). -/
def notBorrowFlag (a b : Byte) : Byte := flagOf (decide (b.toNat ≤ a.toNat))

/-- `b >> 1`, logical (41 R150). -/
def shiftRight (b : Byte) : Byte := b >>> 1

/-- The bit `SHR` shifts out, `b & 1` (41 R150). -/
def shiftRightFlag (b : Byte) : Byte := flagOf (b.getLsbD 0)

/-- `(b << 1) mod 256` (41 R152). -/
def shiftLeft (b : Byte) : Byte := b <<< 1

/-- The bit `SHL` shifts out, `(b >> 7) & 1` (41 R152). -/
def shiftLeftFlag (b : Byte) : Byte := flagOf (b.getLsbD 7)

end Sys2Proof.Machine
end

