-- ==== Sys2Proof/Config.lean ====
section
/-!
DEFINITION. What is fixed for one machine: the constants of 00_scope R7, the two parameters that R8 leaves to the
implementation, and the free values of this hardware.
-/

namespace Sys2Proof

/-- `RAM_SIZE`: valid addresses are 0 to 4095 (00_scope R7). -/
abbrev Config.ramSize : Nat := 4096

/-- `PROG_BASE`: load address of the program and reset value of `PC` (00_scope R7). -/
abbrev Config.progBase : Nat := 512

/-- `ROM_MAX`: greatest program length in bytes (00_scope R7). -/
abbrev Config.romMax : Nat := 3584

/-- `FONT_BASE`: first byte of the font table (00_scope R7). -/
abbrev Config.fontBase : Nat := 80

/-- `FONT_GLYPH_BYTES`: bytes per glyph (00_scope R7). -/
abbrev Config.fontGlyphBytes : Nat := 5

/-- `STACK_DEPTH`: entries of the call stack (00_scope R7). -/
abbrev Config.stackDepth : Nat := 16

/-- `FB_W`: framebuffer width in pixels (00_scope R7). -/
abbrev Config.fbWidth : Nat := 64

/-- `FB_H`: framebuffer height in pixels (00_scope R7). -/
abbrev Config.fbHeight : Nat := 32

/-- The random byte of `RAND Vx,NN`: the `n`-th draw since the model's start is `Config.randByte n`. It has no
body: a claim holds whatever the bytes are (00_scope R8 `RandByte`, 92 D13, 93 U1). Log 3. -/
opaque Config.randByte : Nat → Byte

/-- The 16 information bits of `fault_out` while no fault is latched. The spec gives that port code 0 then and no
information (60 R237, 10_state R37). DESIGN CHOICE: a free value with no body, so a claim holds whatever the bits are;
safe but for a claim that compares two such outputs. Log 32. -/
opaque Config.idleFaultInfo : Word

/-- The two parameters that the source leaves to the implementation (00_scope R8). They are plain data that a
state carries and no step changes, so a claim about every state covers both values of each. The defaults are
the spec's. Log 2. -/
structure Config where
  /-- `INDEX_INCREMENT_ON_BULK`: whether `REGDUMP` and `REGLOAD` add x+1 to `I` (00_scope R8, 42 R167). -/
  indexIncrementOnBulk : Bool := false
  /-- `KEY_WAIT_EDGE`: whether `LOAD Vx,K` completes on a newly pressed key (00_scope R8, 44 R195). -/
  keyWaitEdge : Bool := true
  deriving DecidableEq, Repr

end Sys2Proof
end

