-- ==== Sys2Proof/Syntax.lean ====
section
/-!
DEFINITION. The 34 instructions (30_encoding R100), one constructor for each row of spec/opcode_table.json, in the
table's order. An operand's type is its field's width (R91), so every operand value a field can hold is an operand
and no other is (R94: all 16 register numbers are legal in every instruction that has the field).
-/

namespace Sys2Proof

/-- A decoded instruction with its fields: the "operation variant" of 30_encoding R92. -/
inductive Instr where
  /-- `CLEAR`, 43 R181 -/
  | clear
  /-- `RETURN`, 40 R122 -/
  | ret
  /-- `JUMP nnn`, 40 R123 -/
  | jump (nnn : Addr12)
  /-- `CALL nnn`, 40 R124 -/
  | call (nnn : Addr12)
  /-- `SE Vx,NN`, 40 R126 -/
  | seImm (x : Reg) (nn : Byte)
  /-- `SNE Vx,NN`, 40 R127 -/
  | sneImm (x : Reg) (nn : Byte)
  /-- `SE Vx,Vy`, 40 R128 -/
  | seReg (x y : Reg)
  /-- `LOAD Vx,NN`, 41 R141 -/
  | loadImm (x : Reg) (nn : Byte)
  /-- `ADD Vx,NN`, 41 R143 -/
  | addImm (x : Reg) (nn : Byte)
  /-- `LOAD Vx,Vy`, 41 R142 -/
  | loadReg (x y : Reg)
  /-- `OR Vx,Vy`, 41 R145 -/
  | orReg (x y : Reg)
  /-- `AND Vx,Vy`, 41 R146 -/
  | andReg (x y : Reg)
  /-- `XOR Vx,Vy`, 41 R147 -/
  | xorReg (x y : Reg)
  /-- `ADD Vx,Vy`, 41 R148 -/
  | addReg (x y : Reg)
  /-- `SUB Vx,Vy`, 41 R149 -/
  | sub (x y : Reg)
  /-- `SHR Vx,Vy`, 41 R150 -/
  | shr (x y : Reg)
  /-- `SUBN Vx,Vy`, 41 R151 -/
  | subn (x y : Reg)
  /-- `SHL Vx,Vy`, 41 R152 -/
  | shl (x y : Reg)
  /-- `SNE Vx,Vy`, 40 R129 -/
  | sneReg (x y : Reg)
  /-- `LOAD I,nnn`, 42 R161 -/
  | loadI (nnn : Addr12)
  /-- `JUMP V0,nnn`, 40 R125 -/
  | jumpV0 (nnn : Addr12)
  /-- `RAND Vx,NN`, 41 R153 -/
  | rand (x : Reg) (nn : Byte)
  /-- `DRAW Vx,Vy,N`, 43 R182 -/
  | draw (x y : Reg) (n : BitVec 4)
  /-- `SKP Vx`, 44 R191 -/
  | skp (x : Reg)
  /-- `SKNP Vx`, 44 R192 -/
  | sknp (x : Reg)
  /-- `LOAD Vx,DT`, 44 R196 -/
  | loadFromDt (x : Reg)
  /-- `LOAD Vx,K`, 44 R194 -/
  | loadKey (x : Reg)
  /-- `LOAD DT,Vx`, 44 R197 -/
  | loadDt (x : Reg)
  /-- `LOAD ST,Vx`, 44 R198 -/
  | loadSt (x : Reg)
  /-- `ADD I,Vx`, 42 R162 -/
  | addI (x : Reg)
  /-- `LOAD_FONT Vx`, 42 R163 -/
  | loadFont (x : Reg)
  /-- `BCD Vx`, 42 R164 -/
  | bcd (x : Reg)
  /-- `REGDUMP Vx`, 42 R165 -/
  | regdump (x : Reg)
  /-- `REGLOAD Vx`, 42 R166 -/
  | regload (x : Reg)
  deriving DecidableEq, Repr

end Sys2Proof
end

