-- ==== Sys2Proof/WellFormed.lean ====
section
/-!
DEFINITION. The checks on raw data: which words are instructions, which of them an assembler emits, and which
program images fit. The word check is the mask/match table of 30_encoding R100, written apart from the decoder's
algorithm (R101) so that the two can be compared. An `Instr` needs no check of its own: its operand types admit
exactly the values the fields admit (R94).
-/

namespace Sys2Proof

/-- One line of the opcode map: a word `w` is the instruction exactly when `w &&& mask = pattern` (R100). -/
structure OpcodeRow where
  mnemonic : String
  mask : Word
  pattern : Word
  deriving DecidableEq, Repr

/-- Rows 1 to 9 of 30_encoding R100. -/
def opcodeRowsLow : List OpcodeRow :=
  [⟨"CLEAR", 0xFFFF, 0x00E0⟩, ⟨"RETURN", 0xFFFF, 0x00EE⟩, ⟨"JUMP_nnn", 0xF000, 0x1000⟩,
   ⟨"CALL_nnn", 0xF000, 0x2000⟩, ⟨"SE_Vx_NN", 0xF000, 0x3000⟩, ⟨"SNE_Vx_NN", 0xF000, 0x4000⟩,
   ⟨"SE_Vx_Vy", 0xF000, 0x5000⟩, ⟨"LOAD_Vx_NN", 0xF000, 0x6000⟩, ⟨"ADD_Vx_NN", 0xF000, 0x7000⟩]

/-- Rows 10 to 18 of 30_encoding R100: `op = 8`, keyed by `n`. -/
def opcodeRowsAlu : List OpcodeRow :=
  [⟨"LOAD_Vx_Vy", 0xF00F, 0x8000⟩, ⟨"OR_Vx_Vy", 0xF00F, 0x8001⟩, ⟨"AND_Vx_Vy", 0xF00F, 0x8002⟩,
   ⟨"XOR_Vx_Vy", 0xF00F, 0x8003⟩, ⟨"ADD_Vx_Vy", 0xF00F, 0x8004⟩, ⟨"SUB_Vx_Vy", 0xF00F, 0x8005⟩,
   ⟨"SHR_Vx_Vy", 0xF00F, 0x8006⟩, ⟨"SUBN_Vx_Vy", 0xF00F, 0x8007⟩, ⟨"SHL_Vx_Vy", 0xF00F, 0x800E⟩]

/-- Rows 19 to 25 of 30_encoding R100. -/
def opcodeRowsHigh : List OpcodeRow :=
  [⟨"SNE_Vx_Vy", 0xF000, 0x9000⟩, ⟨"LOAD_I_nnn", 0xF000, 0xA000⟩, ⟨"JUMP_V0_nnn", 0xF000, 0xB000⟩,
   ⟨"RAND_Vx_NN", 0xF000, 0xC000⟩, ⟨"DRAW_Vx_Vy_N", 0xF000, 0xD000⟩, ⟨"SKP_Vx", 0xF0FF, 0xE09E⟩,
   ⟨"SKNP_Vx", 0xF0FF, 0xE0A1⟩]

/-- Rows 26 to 34 of 30_encoding R100: `op = F`, keyed by `nn`. -/
def opcodeRowsMisc : List OpcodeRow :=
  [⟨"LOAD_Vx_DT", 0xF0FF, 0xF007⟩, ⟨"LOAD_Vx_K", 0xF0FF, 0xF00A⟩, ⟨"LOAD_DT_Vx", 0xF0FF, 0xF015⟩,
   ⟨"LOAD_ST_Vx", 0xF0FF, 0xF018⟩, ⟨"ADD_I_Vx", 0xF0FF, 0xF01E⟩, ⟨"LOAD_FONT_Vx", 0xF0FF, 0xF029⟩,
   ⟨"BCD_Vx", 0xF0FF, 0xF033⟩, ⟨"REGDUMP_Vx", 0xF0FF, 0xF055⟩, ⟨"REGLOAD_Vx", 0xF0FF, 0xF065⟩]

/-- The complete opcode map, 34 rows (30_encoding R100). Log 6. -/
def opcodeTable : List OpcodeRow :=
  opcodeRowsLow ++ opcodeRowsAlu ++ opcodeRowsHigh ++ opcodeRowsMisc

/-- The word is of this row (30_encoding R100). -/
def OpcodeRow.fits (r : OpcodeRow) (w : Word) : Bool := w &&& r.mask == r.pattern

/-- The word is an instruction: it matches a row; any other word is illegal (30_encoding R102). -/
def Word.legal (w : Word) : Bool := opcodeTable.any (fun r => r.fits w)

/-- The word is one an assembler emits: legal, and with low nibble 0 where the decoder does not examine it
(30_encoding R104). -/
def Word.canonical (w : Word) : Bool :=
  Word.legal w &&
    (if w.extractLsb' 12 4 = 0x5#4 ∨ w.extractLsb' 12 4 = 0x9#4 then w.extractLsb' 0 4 == 0#4 else true)

/-- The row of spec/opcode_table.json that an instruction stands for. -/
def Instr.mnemonic : Instr → String
  | .clear => "CLEAR"
  | .ret => "RETURN"
  | .jump _ => "JUMP_nnn"
  | .call _ => "CALL_nnn"
  | .seImm _ _ => "SE_Vx_NN"
  | .sneImm _ _ => "SNE_Vx_NN"
  | .seReg _ _ => "SE_Vx_Vy"
  | .loadImm _ _ => "LOAD_Vx_NN"
  | .addImm _ _ => "ADD_Vx_NN"
  | .loadReg _ _ => "LOAD_Vx_Vy"
  | .orReg _ _ => "OR_Vx_Vy"
  | .andReg _ _ => "AND_Vx_Vy"
  | .xorReg _ _ => "XOR_Vx_Vy"
  | .addReg _ _ => "ADD_Vx_Vy"
  | .sub _ _ => "SUB_Vx_Vy"
  | .shr _ _ => "SHR_Vx_Vy"
  | .subn _ _ => "SUBN_Vx_Vy"
  | .shl _ _ => "SHL_Vx_Vy"
  | .sneReg _ _ => "SNE_Vx_Vy"
  | .loadI _ => "LOAD_I_nnn"
  | .jumpV0 _ => "JUMP_V0_nnn"
  | .rand _ _ => "RAND_Vx_NN"
  | .draw _ _ _ => "DRAW_Vx_Vy_N"
  | .skp _ => "SKP_Vx"
  | .sknp _ => "SKNP_Vx"
  | .loadFromDt _ => "LOAD_Vx_DT"
  | .loadKey _ => "LOAD_Vx_K"
  | .loadDt _ => "LOAD_DT_Vx"
  | .loadSt _ => "LOAD_ST_Vx"
  | .addI _ => "ADD_I_Vx"
  | .loadFont _ => "LOAD_FONT_Vx"
  | .bcd _ => "BCD_Vx"
  | .regdump _ => "REGDUMP_Vx"
  | .regload _ => "REGLOAD_Vx"

/-- A program image that `LoadROM` accepts: `512 + L ≤ 4096` (70 R253). -/
def romFits (bytes : List Byte) : Bool := decide (Config.progBase + bytes.length ≤ Config.ramSize)

end Sys2Proof
end

