-- ==== Sys2Proof/Decode.lean ====
section
/-!
DEFINITION. The decoder, a pure function of the word (30_encoding R92), total on words and on byte lists, and the
encoder, written from the same table (R100).
-/

namespace Sys2Proof

/-- The six fields of a word, always extracted the same way (30_encoding R91). -/
structure Fields where
  op : BitVec 4
  x : Reg
  y : Reg
  n : BitVec 4
  nn : Byte
  nnn : Addr12
  deriving DecidableEq, Repr

/-- Field extraction (30_encoding R91). -/
def fieldsOf (w : Word) : Fields where
  op := w.extractLsb' 12 4
  x := w.extractLsb' 8 4
  y := w.extractLsb' 4 4
  n := w.extractLsb' 0 4
  nn := w.extractLsb' 0 8
  nnn := w.extractLsb' 0 12

/-- What the decoder answers (30_encoding R92): an operation with its fields, or `DecodeError` carrying the raw
word; on a byte list also a name for a list too short to hold an instruction word (R90). -/
inductive Decoded where
  | op (i : Instr)
  | decodeError (w : Word)
  | truncated
  deriving DecidableEq, Repr

/-- `op = 0`: the whole word is matched (30_encoding R95, R101). -/
def decodeOp0 (w : Word) : Decoded :=
  if w = 0x00E0#16 then .op .clear
  else if w = 0x00EE#16 then .op .ret
  else .decodeError w

/-- `op = 8`: keyed by `n` (30_encoding R101). -/
def decodeOp8 (w : Word) (f : Fields) : Decoded :=
  match f.n with
  | 0x0#4 => .op (.loadReg f.x f.y)
  | 0x1#4 => .op (.orReg f.x f.y)
  | 0x2#4 => .op (.andReg f.x f.y)
  | 0x3#4 => .op (.xorReg f.x f.y)
  | 0x4#4 => .op (.addReg f.x f.y)
  | 0x5#4 => .op (.sub f.x f.y)
  | 0x6#4 => .op (.shr f.x f.y)
  | 0x7#4 => .op (.subn f.x f.y)
  | 0xE#4 => .op (.shl f.x f.y)
  | _ => .decodeError w

/-- `op = E`: keyed by `nn` (30_encoding R101). -/
def decodeOpE (w : Word) (f : Fields) : Decoded :=
  match f.nn with
  | 0x9E#8 => .op (.skp f.x)
  | 0xA1#8 => .op (.sknp f.x)
  | _ => .decodeError w

/-- `op = F`: keyed by `nn` (30_encoding R101). -/
def decodeOpF (w : Word) (f : Fields) : Decoded :=
  match f.nn with
  | 0x07#8 => .op (.loadFromDt f.x)
  | 0x0A#8 => .op (.loadKey f.x)
  | 0x15#8 => .op (.loadDt f.x)
  | 0x18#8 => .op (.loadSt f.x)
  | 0x1E#8 => .op (.addI f.x)
  | 0x29#8 => .op (.loadFont f.x)
  | 0x33#8 => .op (.bcd f.x)
  | 0x55#8 => .op (.regdump f.x)
  | 0x65#8 => .op (.regload f.x)
  | _ => .decodeError w

/-- The decode algorithm (30_encoding R101). The low nibble of `op` 5 and 9 is not examined (R104, log 9). -/
def decode (w : Word) : Decoded :=
  let f := fieldsOf w
  match f.op with
  | 0x0#4 => decodeOp0 w
  | 0x1#4 => .op (.jump f.nnn)
  | 0x2#4 => .op (.call f.nnn)
  | 0x3#4 => .op (.seImm f.x f.nn)
  | 0x4#4 => .op (.sneImm f.x f.nn)
  | 0x5#4 => .op (.seReg f.x f.y)
  | 0x6#4 => .op (.loadImm f.x f.nn)
  | 0x7#4 => .op (.addImm f.x f.nn)
  | 0x8#4 => decodeOp8 w f
  | 0x9#4 => .op (.sneReg f.x f.y)
  | 0xA#4 => .op (.loadI f.nnn)
  | 0xB#4 => .op (.jumpV0 f.nnn)
  | 0xC#4 => .op (.rand f.x f.nn)
  | 0xD#4 => .op (.draw f.x f.y f.n)
  | 0xE#4 => decodeOpE w f
  | _ => decodeOpF w f

/-- Two bytes as a word, the byte at the lower address in bits 15 to 8 (20_memory R64, R69). -/
def wordOfBytes (hi lo : Byte) : Word := hi ++ lo

/-- The first byte of a word in RAM (20_memory R69). -/
def highByte (w : Word) : Byte := w.extractLsb' 8 8

/-- The second byte of a word in RAM (20_memory R69). -/
def lowByte (w : Word) : Byte := w.extractLsb' 0 8

/-- One instruction from the front of a byte list, with the bytes after it. Every instruction is two bytes
(30_encoding R90). -/
def decodeBytes : List Byte → Decoded × List Byte
  | hi :: lo :: rest => (decode (wordOfBytes hi lo), rest)
  | bytes => (.truncated, bytes)

/-- The word of an `op = 8` instruction with sub-opcode `n` (format `XY`, 30_encoding R93). -/
def encodeXY (op : BitVec 4) (x y : Reg) (n : BitVec 4) : Word := op ++ x ++ y ++ n

/-- The word of a format `X` or `XNN` instruction (30_encoding R93). -/
def encodeX (op : BitVec 4) (x : Reg) (nn : Byte) : Word := op ++ x ++ nn

/-- The word of a format `NNN` instruction (30_encoding R93). -/
def encodeNNN (op : BitVec 4) (nnn : Addr12) : Word := op ++ nnn

/-- The canonical word of an instruction (30_encoding R100; low nibble 0 for `SE Vx,Vy` and `SNE Vx,Vy`, R104). -/
def encode : Instr → Word
  | .clear => 0x00E0#16
  | .ret => 0x00EE#16
  | .jump nnn => encodeNNN 0x1#4 nnn
  | .call nnn => encodeNNN 0x2#4 nnn
  | .seImm x nn => encodeX 0x3#4 x nn
  | .sneImm x nn => encodeX 0x4#4 x nn
  | .seReg x y => encodeXY 0x5#4 x y 0x0#4
  | .loadImm x nn => encodeX 0x6#4 x nn
  | .addImm x nn => encodeX 0x7#4 x nn
  | .loadReg x y => encodeXY 0x8#4 x y 0x0#4
  | .orReg x y => encodeXY 0x8#4 x y 0x1#4
  | .andReg x y => encodeXY 0x8#4 x y 0x2#4
  | .xorReg x y => encodeXY 0x8#4 x y 0x3#4
  | .addReg x y => encodeXY 0x8#4 x y 0x4#4
  | .sub x y => encodeXY 0x8#4 x y 0x5#4
  | .shr x y => encodeXY 0x8#4 x y 0x6#4
  | .subn x y => encodeXY 0x8#4 x y 0x7#4
  | .shl x y => encodeXY 0x8#4 x y 0xE#4
  | .sneReg x y => encodeXY 0x9#4 x y 0x0#4
  | .loadI nnn => encodeNNN 0xA#4 nnn
  | .jumpV0 nnn => encodeNNN 0xB#4 nnn
  | .rand x nn => encodeX 0xC#4 x nn
  | .draw x y n => encodeXY 0xD#4 x y n
  | .skp x => encodeX 0xE#4 x 0x9E#8
  | .sknp x => encodeX 0xE#4 x 0xA1#8
  | .loadFromDt x => encodeX 0xF#4 x 0x07#8
  | .loadKey x => encodeX 0xF#4 x 0x0A#8
  | .loadDt x => encodeX 0xF#4 x 0x15#8
  | .loadSt x => encodeX 0xF#4 x 0x18#8
  | .addI x => encodeX 0xF#4 x 0x1E#8
  | .loadFont x => encodeX 0xF#4 x 0x29#8
  | .bcd x => encodeX 0xF#4 x 0x33#8
  | .regdump x => encodeX 0xF#4 x 0x55#8
  | .regload x => encodeX 0xF#4 x 0x65#8

/-- The first word of an opcode-table word of `nbits` bits; the table numbers the bits of a CHIP-8 word as the spec
does, and the bits above `nbits` are 0. -/
def tableWord (nbits w : Nat) : Word := BitVec.ofNat 16 (w % 2 ^ nbits)

/-- The instruction the decoder reads from an opcode-table word, laid out in RAM order (20_memory R69). -/
def decodeTableWord (nbits w : Nat) : Option Instr :=
  match (decodeBytes [highByte (tableWord nbits w), lowByte (tableWord nbits w)]).1 with
  | .op i => some i
  | _ => none

end Sys2Proof
end

