-- ==== Sys2Proof/Machine/State.lean ====
section
/-!
DEFINITION. The state of CORE (10_state R44) as plain data, the reasons a step can stop, and the state after `Reset`.
-/

namespace Sys2Proof.Machine

/-- The six fault causes (60_exceptions R210). -/
inductive Cause where
  | decodeError
  | stackOverflow
  | stackUnderflow
  | romTooLarge
  | outOfRange
  /-- Kept for its code; nothing inside CORE raises it (44 R193). -/
  | unknownKeyCode
  deriving DecidableEq, Repr

/-- What the fault latch holds once it is not `none`: the cause and 16 bits of information (10_state R37). -/
structure FaultRecord where
  cause : Cause
  info : Word
  deriving DecidableEq, Repr

/-- A pulse on the tone output (60_exceptions R231). -/
inductive ToneSignal where
  | start
  | stop
  deriving DecidableEq, Repr

/-- The five events that change the state (00_scope R3). -/
inductive Event where
  /-- run one cycle (40 R120) -/
  | cycle
  /-- one 60 Hz timer tick (60 R230) -/
  | tick
  /-- load the key latch (60 R234) -/
  | keyRefresh (k : Word)
  /-- session reset (70 R250) -/
  | reset
  /-- load a program (70 R253) -/
  | loadRom (bytes : List Byte)
  deriving DecidableEq, Repr

/-- RAM as the bytes that differ from the reset contents, by rising address (Machine/Memory.lean; log 20). -/
abbrev Memory := List Host.Cell

/-- The state of the machine, one field for each element of 10_state R44, then the parameters, then the model's own
fields. -/
structure State where
  /-- `V[0..15]`, the general registers; `V[15]` is `VF` (10_state R20, R21) -/
  v : Vector Byte 16
  /-- `I`, the index register (R27) -/
  i : Word
  /-- `PC`, the program counter (R23) -/
  pc : Word
  /-- the live entries of `STACK`, most recent first, so the head is `STACK[SP-1]` (R28, 92 D23; log 19) -/
  stack : List Word
  /-- `DT`, the delay timer (R30) -/
  dt : Byte
  /-- `ST`, the sound timer (R31) -/
  st : Byte
  /-- `RAM[0..4095]` (R38) -/
  ram : Memory
  /-- `FB[0..2047]`, the framebuffer (R39) -/
  fb : Pixels
  /-- `KEY`, the key latch (R32) -/
  key : Word
  /-- `WAIT`, the wait-for-key latch: true is WAITING_FOR_KEY (R33) -/
  wait : Bool
  /-- `WREG`, the wait destination (R34) -/
  wreg : Reg
  /-- `KPREV`, the previous key sample (R35) -/
  kprev : Word
  /-- `TONE`, the tone latch (R36) -/
  tone : Bool
  /-- `FAULT`, the fault latch (R37) -/
  fault : Option FaultRecord
  /-- the parameters of 00_scope R8, which no step changes (log 2) -/
  cfg : Config
  /-- MODEL'S OWN: how many random bytes have been drawn, the argument of the next free value (log 3) -/
  draws : Nat
  /-- MODEL'S OWN: the tone pulses emitted since the last `Reset`, oldest first (60 R231; log 16) -/
  tones : List ToneSignal
  /-- MODEL'S OWN: the events the driver raises next, oldest first; with none listed it raises `Cycle`
  (00_scope R3, R4; log 1) -/
  pending : List Event
  deriving DecidableEq, Repr

/-- `SP`, the stack depth, 0 to 16 (10_state R28). -/
def State.sp (s : State) : Nat := s.stack.length

/-- `STACK[k]` for a live `k`, oldest entry first (10_state R28). -/
def State.stackCell (s : State) (k : Nat) : Option Word := s.stack.reverse[k]?

/-- Reasons for the run to stop with a fault outside the machine. There are none, and that is safe: every fault of
60_exceptions R210 is latched in `State.fault` by a NEXT state (R212), and a `Cycle` after it is a next state
that changes nothing (R217). Nobody raises a `Fault`. Log 4. -/
inductive Fault : Type
  deriving DecidableEq, Repr

/-- Reasons for the model to give no meaning. -/
inductive Refusal where
  /-- Raised by an arm of `exec` whose instruction has no meaning yet; safe, since nothing follows from it. No arm
  of this model raises it. -/
  | notModelled (mnemonic : String)
  deriving DecidableEq, Repr

/-- What one step, or one instruction, answers. -/
abbrev Result := Host.Outcome State Fault Refusal

/-- The state right after `Reset` (10_state R44, 70 R250): every register zero, `PC` = 512, RAM at its reset contents
(nothing listed), the display clear, the engine running, no fault; the parameters at the spec's defaults. -/
def State.reset : State where
  v := Vector.replicate 16 0
  i := 0
  pc := 512
  stack := []
  dt := 0
  st := 0
  ram := []
  fb := Vector.replicate 32 0
  key := 0
  wait := false
  wreg := 0
  kprev := 0
  tone := false
  fault := none
  cfg := {}
  draws := 0
  tones := []
  pending := []

end Sys2Proof.Machine
end

