-- ==== Sys2Proof/Machine/Memory.lean ====
section
/-!
DEFINITION. RAM (20_memory R60 to R63): 4096 bytes, held as the list of those that differ from their reset contents,
in one canonical form.
-/

namespace Sys2Proof.Machine

/-- Glyphs 0 to 7 of the font (20_memory R62). Log 7. -/
def fontLow : List Byte :=
  [0xF0, 0x90, 0x90, 0x90, 0xF0] ++ [0x20, 0x60, 0x20, 0x20, 0x70] ++
  [0xF0, 0x10, 0xF0, 0x80, 0xF0] ++ [0xF0, 0x10, 0xF0, 0x10, 0xF0] ++
  [0x90, 0x90, 0xF0, 0x10, 0x10] ++ [0xF0, 0x80, 0xF0, 0x10, 0xF0] ++
  [0xF0, 0x80, 0xF0, 0x90, 0xF0] ++ [0xF0, 0x10, 0x20, 0x40, 0x40]

/-- Glyphs 8 to F of the font (20_memory R62). Log 7. -/
def fontHigh : List Byte :=
  [0xF0, 0x90, 0xF0, 0x90, 0xF0] ++ [0xF0, 0x90, 0xF0, 0x10, 0xF0] ++
  [0xF0, 0x90, 0xF0, 0x90, 0x90] ++ [0xE0, 0x90, 0xE0, 0x90, 0xE0] ++
  [0xF0, 0x80, 0x80, 0x80, 0xF0] ++ [0xE0, 0x90, 0x90, 0x90, 0xE0] ++
  [0xF0, 0x80, 0xF0, 0x80, 0xF0] ++ [0xF0, 0x80, 0xF0, 0x80, 0x80]

/-- The font table, 16 glyphs of 5 bytes (20_memory R62). -/
def fontTable : List Byte := fontLow ++ fontHigh

/-- What an unlisted address reads as: the contents of RAM after `Reset`, the font at 80 to 159 and zero elsewhere
(20_memory R61, 10_state R44). Log 20. -/
def Memory.initial (a : Nat) : Byte :=
  if Config.fontBase ≤ a ∧ a < 160 then fontTable.getD (a - Config.fontBase) 0 else 0

/-- `RAM[a]`, with no check (00_scope R11). -/
def Memory.read : Memory → Nat → Byte
  | [], a => Memory.initial a
  | (k, c) :: m, a => if k = a then c else Memory.read m a

/-- List the byte `b` at address `a` in front of `m`, unless it is the byte that an unlisted `a` reads as. -/
def Memory.put (a : Nat) (b : Byte) (m : Memory) : Memory :=
  if b = Memory.initial a then m else (a, b) :: m

/-- `RAM[a] <- b`, with no check (00_scope R11), keeping the canonical form. -/
def Memory.write : Memory → Nat → Byte → Memory
  | [], a, b => Memory.put a b []
  | (k, c) :: m, a, b =>
    if a < k then Memory.put a b ((k, c) :: m)
    else if a = k then Memory.put a b m
    else (k, c) :: Memory.write m a b

/-- The canonical form: addresses strictly rising and inside RAM, and no entry equal to what its address reads as
when it is unlisted. -/
abbrev Memory.wf (m : Memory) : Prop :=
  m.Pairwise (fun p q => p.1 < q.1) ∧ ∀ c ∈ m, c.1 < Config.ramSize ∧ c.2 ≠ Memory.initial c.1

/-- The `n` bytes from `a` up (20_memory R70). -/
def Memory.readBytes (m : Memory) (a n : Nat) : List Byte := (List.range n).map (fun k => m.read (a + k))

/-- Store the bytes at rising addresses from `a` (20_memory R70). -/
def Memory.writeBytes (m : Memory) : Nat → List Byte → Memory
  | _, [] => m
  | a, b :: bs => Memory.writeBytes (Memory.write m a b) (a + 1) bs

end Sys2Proof.Machine
end

