-- ==== Sys2Proof/Machine/Ops.lean ====
section
/-!
DEFINITION. The shared operations: reading and writing each element of state, raising a fault, the checked memory
primitives, the call stack, and the ways `PC` moves.
-/

namespace Sys2Proof.Machine

/-! ### Elements of state, one writer each -/

/-- `V[x]` (00_scope R11). -/
def State.reg (s : State) (x : Reg) : Byte := s.v[x.toNat]

/-- `V[x] <- b` (00_scope R11). -/
def State.setReg (s : State) (x : Reg) (b : Byte) : State := { s with v := s.v.set x.toNat b x.isLt }

/-- `VF`, the same register as `V[15]` (00_scope R11). -/
abbrev flagReg : Reg := 15#4

/-- The result to `V[x]` first and then the flag to `VF`, so with `x = 15` the flag remains (00_scope R13, 41 R144). -/
def State.setResultFlag (s : State) (x : Reg) (result flag : Byte) : State :=
  (s.setReg x result).setReg flagReg flag

/-- All the general registers at once. -/
def State.setRegs (s : State) (v : Vector Byte 16) : State := { s with v := v }

/-- `I <- a`. -/
def State.setI (s : State) (a : Word) : State := { s with i := a }

/-- `PC <- a`. -/
def State.setPc (s : State) (a : Word) : State := { s with pc := a }

/-- The call stack becomes `l`. -/
def State.setStack (s : State) (l : List Word) : State := { s with stack := l }

/-- `DT <- b`. -/
def State.setDt (s : State) (b : Byte) : State := { s with dt := b }

/-- `ST <- b`. -/
def State.setSt (s : State) (b : Byte) : State := { s with st := b }

/-- RAM becomes `m`. -/
def State.setRam (s : State) (m : Memory) : State := { s with ram := m }

/-- The framebuffer becomes `p`. -/
def State.setFb (s : State) (p : Pixels) : State := { s with fb := p }

/-- `KPREV <- k`. -/
def State.setKprev (s : State) (k : Word) : State := { s with kprev := k }

/-- `WAIT <- w`. -/
def State.setWait (s : State) (w : Bool) : State := { s with wait := w }

/-- `WREG <- x`. -/
def State.setWreg (s : State) (x : Reg) : State := { s with wreg := x }

/-- One more random byte has been drawn (log 3). -/
def State.countDraw (s : State) : State := { s with draws := s.draws + 1 }

/-- The pulse `p` on the tone output, after which the level `TONE` is `level` (60 R231). -/
def State.emit (s : State) (p : ToneSignal) (level : Bool) : State :=
  { s with tone := level, tones := s.tones ++ [p] }

/-- The driver's schedule becomes `l` (log 1). -/
def State.setPending (s : State) (l : List Event) : State := { s with pending := l }

/-! ### Pixels -/

/-- `FB[i]` (10_state R39): row `i / 64`, column `i % 64`. -/
def fbGet (p : Pixels) (i : Nat) : Bool :=
  (p[i / Config.fbWidth]?.getD 0).getLsbD (i % Config.fbWidth)

/-- `FB[i] <- FB[i] ^ 1` (43 R180). -/
def fbToggle (p : Pixels) (i : Nat) : Pixels :=
  p.setIfInBounds (i / Config.fbWidth)
    (p[i / Config.fbWidth]?.getD 0 ^^^ BitVec.twoPow 64 (i % Config.fbWidth))

/-- All pixels 0 (43 R181). -/
def fbClear : Pixels := Vector.replicate 32 0

/-! ### Faults -/

/-- `raise cause(info)`: latch the fault and change nothing else (60_exceptions R212). This is the machine's only
exception entry; there is no return from it but `Reset` (R220). -/
def State.raise (s : State) (f : FaultRecord) : State := { s with fault := some f }

/-- An instruction whose checks come before its writes: it has its effect, or it faults with no effect (60 R212, R219). -/
def State.complete (s : State) : Except FaultRecord State → Result
  | .ok t => .next t
  | .error f => .next (s.raise f)

/-- The cause codes (60_exceptions R210). -/
def Cause.code : Cause → BitVec 3
  | .decodeError => 1
  | .stackOverflow => 2
  | .stackUnderflow => 3
  | .romTooLarge => 4
  | .outOfRange => 5
  | .unknownKeyCode => 6

/-! ### Memory primitives -/

/-- The fault of an access that starts at `addr` and reaches past RAM, with the least offending address (20_memory R66). -/
def outOfRangeAt (addr : Nat) : FaultRecord := ⟨.outOfRange, BitVec.ofNat 16 (max addr Config.ramSize)⟩

/-- `CheckRange(addr, n)`: over the integers, nothing to check when `n = 0` (20_memory R66, R68). -/
def checkRange (addr n : Nat) : Except FaultRecord Unit :=
  if n = 0 ∨ addr + n ≤ Config.ramSize then .ok () else .error (outOfRangeAt addr)

/-- `MemRead(addr, 1)` (20_memory R64). -/
def State.memReadByte (s : State) (addr : Nat) : Except FaultRecord Byte := do
  checkRange addr 1
  return s.ram.read addr

/-- `MemRead(addr, 2)`: big-endian (20_memory R64, R69). -/
def State.memReadWord (s : State) (addr : Nat) : Except FaultRecord Word := do
  checkRange addr 2
  return wordOfBytes (s.ram.read addr) (s.ram.read (addr + 1))

/-- `MemWrite(addr, 1, b)` (20_memory R65). -/
def State.memWriteByte (s : State) (addr : Nat) (b : Byte) : Except FaultRecord State := do
  checkRange addr 1
  return s.setRam (s.ram.write addr b)

/-- Instruction fetch (20_memory R67): it does not change `PC`. -/
def State.fetch (s : State) : Except FaultRecord Word := s.memReadWord s.pc.toNat

/-- The word that stands at `PC`, read without a check. -/
def State.wordAtPc (s : State) : Word :=
  wordOfBytes (s.ram.read s.pc.toNat) (s.ram.read (s.pc.toNat + 1))

/-! ### Call stack -/

/-- `Push(a)` (10_state R28). -/
def State.push (s : State) (a : Word) : Except FaultRecord State :=
  if Config.stackDepth ≤ s.sp then .error ⟨.stackOverflow, 0⟩ else .ok (s.setStack (a :: s.stack))

/-- `Pop()` (10_state R28). -/
def State.pop (s : State) : Except FaultRecord (Word × State) :=
  match s.stack with
  | [] => .error ⟨.stackUnderflow, 0⟩
  | a :: l => .ok (a, s.setStack l)

/-! ### Moving PC (40 R121) -/

/-- The default advance, `PC + 2`. -/
def State.advance (s : State) : State := s.setPc (s.pc + 2)

/-- A skip: `PC + 4` when the condition holds, the default advance when it does not. -/
def State.skipIf (s : State) (c : Bool) : State := s.setPc (if c then s.pc + 4 else s.pc + 2)

end Sys2Proof.Machine
end

