-- ==== Sys2Proof/Machine/Operands.lean ====
section
/-!
DEFINITION. Operand forms: immediates widened to a register, the key a register names, the bytes an instruction finds
through `I`, and the register range of the bulk transfers.
-/

namespace Sys2Proof.Machine

/-- `zext_16(nnn)`: a 12-bit address immediate in a 16-bit register (30_encoding R94). -/
def zext16 (nnn : Addr12) : Word := nnn.setWidth 16

/-- The base address of every data access, `I`, as an integer; byte `k` is at `I + k` (42 R160, 20_memory R68). -/
def State.base (s : State) : Nat := s.i.toNat

/-- `b & 0xF`, the key or the glyph a register names (44 R191, 42 R163). -/
def lowNibble (b : Byte) : BitVec 4 := b.extractLsb' 0 4

/-- `KeyDown(k)`: bit `k` of the key latch (44 R190). -/
def State.keyDown (s : State) (k : BitVec 4) : Bool := s.key.getLsbD k.toNat

/-- How many registers the bulk transfers move: `V[0]` to `V[x]` (42 R165). -/
def bulkCount (x : Reg) : Nat := x.toNat + 1

/-- The values of `V[0]` to `V[x]` in rising order (42 R165). -/
def State.bulkRegs (s : State) (x : Reg) : List Byte :=
  (List.range (bulkCount x)).map (fun k => s.reg (BitVec.ofNat 4 k))

/-- The registers after `V[k] <- RAM[I + k]` for `k` in `0 .. x` (42 R166). -/
def State.bulkLoaded (s : State) (x : Reg) : Vector Byte 16 :=
  (List.range (bulkCount x)).foldl (fun v k => v.setIfInBounds k (s.ram.read (s.base + k))) s.v

/-- `I` after a bulk transfer that did not fault (42 R167). -/
def State.bulkIndex (s : State) (x : Reg) : Word :=
  if s.cfg.indexIncrementOnBulk then s.i + BitVec.ofNat 16 (bulkCount x) else s.i

/-- The three decimal digits of a byte, hundreds first (42 R164). -/
def bcdDigits (b : Byte) : List Byte :=
  [BitVec.ofNat 8 (b.toNat / 100), BitVec.ofNat 8 (b.toNat / 10 % 10), BitVec.ofNat 8 (b.toNat % 10)]

/-- `LowestSet(m)`: the least `k` with `m[k] = 1`, none for zero (00_scope R11). -/
def lowestSet (m : Word) : Option Nat := (List.range 16).find? (fun k => m.getLsbD k)

end Sys2Proof.Machine
end

