-- ==== Sys2Proof/Machine/Alu.lean ====
section
/-!
DEFINITION. Register load, arithmetic and logic (41 R141 to R153). Operands are read first, then the result is written,
then the flag (R144); none of these can fault.
-/

namespace Sys2Proof.Machine

/-- `LOAD Vx,NN` (41 R141). -/
def execLoadImm (x : Reg) (nn : Byte) (s : State) : Result := .next (s.setReg x nn).advance

/-- `LOAD Vx,Vy` (41 R142). -/
def execLoadReg (x y : Reg) (s : State) : Result := .next (s.setReg x (s.reg y)).advance

/-- `ADD Vx,NN` (41 R143): no flag. -/
def execAddImm (x : Reg) (nn : Byte) (s : State) : Result :=
  .next (s.setReg x (addMod (s.reg x) nn)).advance

/-- `OR Vx,Vy` (41 R145). -/
def execOrReg (x y : Reg) (s : State) : Result := .next (s.setReg x (s.reg x ||| s.reg y)).advance

/-- `AND Vx,Vy` (41 R146). -/
def execAndReg (x y : Reg) (s : State) : Result := .next (s.setReg x (s.reg x &&& s.reg y)).advance

/-- `XOR Vx,Vy` (41 R147). -/
def execXorReg (x y : Reg) (s : State) : Result := .next (s.setReg x (s.reg x ^^^ s.reg y)).advance

/-- `ADD Vx,Vy` (41 R148). -/
def execAddReg (x y : Reg) (s : State) : Result :=
  .next (s.setResultFlag x (addMod (s.reg x) (s.reg y)) (carryFlag (s.reg x) (s.reg y))).advance

/-- `SUB Vx,Vy` (41 R149). -/
def execSub (x y : Reg) (s : State) : Result :=
  .next (s.setResultFlag x (subMod (s.reg x) (s.reg y)) (notBorrowFlag (s.reg x) (s.reg y))).advance

/-- `SHR Vx,Vy` (41 R150): the value shifted is `V[y]`. -/
def execShr (x y : Reg) (s : State) : Result :=
  .next (s.setResultFlag x (shiftRight (s.reg y)) (shiftRightFlag (s.reg y))).advance

/-- `SUBN Vx,Vy` (41 R151). -/
def execSubn (x y : Reg) (s : State) : Result :=
  .next (s.setResultFlag x (subMod (s.reg y) (s.reg x)) (notBorrowFlag (s.reg y) (s.reg x))).advance

/-- `SHL Vx,Vy` (41 R152): the value shifted is `V[y]`. -/
def execShl (x y : Reg) (s : State) : Result :=
  .next (s.setResultFlag x (shiftLeft (s.reg y)) (shiftLeftFlag (s.reg y))).advance

/-- `RAND Vx,NN` (41 R153): a fresh free byte at every execution (log 3). -/
def execRand (x : Reg) (nn : Byte) (s : State) : Result :=
  .next (s.setReg x (Config.randByte s.draws &&& nn)).countDraw.advance

end Sys2Proof.Machine
end

