-- ==== Sys2Proof/Machine/Control.lean ====
section
/-!
DEFINITION. The control-flow instructions (40 R122 to R129).
-/

namespace Sys2Proof.Machine

/-- `RETURN` (40 R122): the popped address is used as it is. -/
def execRet (s : State) : Result := s.complete do
  let (a, t) ← s.pop
  return t.setPc a

/-- `JUMP nnn` (40 R123). -/
def execJump (nnn : Addr12) (s : State) : Result := .next (s.setPc (zext16 nnn))

/-- `CALL nnn` (40 R124): pushes the address of the instruction after itself (92 D4, log 12). -/
def execCall (nnn : Addr12) (s : State) : Result := s.complete do
  let t ← s.push (s.pc + 2)
  return t.setPc (zext16 nnn)

/-- `JUMP V0,nnn` (40 R125): the sum is not wrapped to 12 bits. -/
def execJumpV0 (nnn : Addr12) (s : State) : Result :=
  .next (s.setPc (BitVec.ofNat 16 ((s.reg 0).toNat + nnn.toNat)))

/-- `SE Vx,NN` (40 R126). Log 8. -/
def execSeImm (x : Reg) (nn : Byte) (s : State) : Result := .next (s.skipIf (s.reg x == nn))

/-- `SNE Vx,NN` (40 R127). Log 8. -/
def execSneImm (x : Reg) (nn : Byte) (s : State) : Result := .next (s.skipIf (s.reg x != nn))

/-- `SE Vx,Vy` (40 R128). Log 8. -/
def execSeReg (x y : Reg) (s : State) : Result := .next (s.skipIf (s.reg x == s.reg y))

/-- `SNE Vx,Vy` (40 R129). Log 8. -/
def execSneReg (x y : Reg) (s : State) : Result := .next (s.skipIf (s.reg x != s.reg y))

end Sys2Proof.Machine
end

