-- ==== Sys2Proof/Machine/Display.lean ====
section
/-!
DEFINITION. The framebuffer and its two instructions (43 R180 to R185).
-/

namespace Sys2Proof.Machine

/-- The place of pixel `(px, py)` in the framebuffer, each coordinate wrapped on its own (43 R180, 10_state R39). -/
def pixelIndex (px py : Nat) : Nat := py % Config.fbHeight * Config.fbWidth + px % Config.fbWidth

/-- A framebuffer in the course of a draw, and whether a pixel has gone from 1 to 0 so far. -/
structure Canvas where
  fb : Pixels
  collision : Bool
  deriving DecidableEq, Repr

/-- `SetPixelXor(px, py)`: toggle one pixel and note whether it was on (43 R180). -/
def Canvas.setPixelXor (c : Canvas) (px py : Nat) : Canvas where
  fb := fbToggle c.fb (pixelIndex px py)
  collision := c.collision || fbGet c.fb (pixelIndex px py)

/-- Column `j` of a sprite row: bit 7 is the leftmost pixel (43 R182, R183; log 7). -/
def Canvas.drawColumn (b : Byte) (x0 py : Nat) (c : Canvas) (j : Nat) : Canvas :=
  if b.getLsbD (7 - j) then c.setPixelXor (x0 + j) py else c

/-- One sprite row, left to right (43 R182). -/
def Canvas.drawRow (b : Byte) (x0 py : Nat) (c : Canvas) : Canvas :=
  (List.range 8).foldl (Canvas.drawColumn b x0 py) c

/-- The sprite rows, from row `py` down (43 R182). -/
def Canvas.drawRows : List Byte → Nat → Nat → Canvas → Canvas
  | [], _, _, c => c
  | b :: bs, x0, py, c => Canvas.drawRows bs x0 (py + 1) (c.drawRow b x0 py)

/-- The start column of a sprite, `V[x] mod 64` (43 R182). -/
def State.spriteX (s : State) (x : Reg) : Nat := (s.reg x).toNat % Config.fbWidth

/-- The start row of a sprite, `V[y] mod 32` (43 R182). -/
def State.spriteY (s : State) (y : Reg) : Nat := (s.reg y).toNat % Config.fbHeight

/-- The framebuffer and the collision that `DRAW Vx,Vy,N` makes of the sprite at `I` (43 R182). -/
def State.drawn (s : State) (x y : Reg) (n : BitVec 4) : Canvas :=
  Canvas.drawRows (s.ram.readBytes s.base n.toNat) (s.spriteX x) (s.spriteY y) ⟨s.fb, false⟩

/-- `CLEAR` (43 R181). -/
def execClear (s : State) : Result := .next (s.setFb fbClear).advance

/-- `DRAW Vx,Vy,N` (43 R182): coordinates are read first, `VF` is written once, last (log 25 for `N = 0`). -/
def execDraw (x y : Reg) (n : BitVec 4) (s : State) : Result := s.complete do
  checkRange s.base n.toNat
  let c := s.drawn x y n
  return ((s.setFb c.fb).setReg flagReg (flagOf c.collision)).advance

end Sys2Proof.Machine
end

