-- ==== Sys2Proof/Machine/IndexMem.lean ====
section
/-!
DEFINITION. The index register and the instructions that move bytes through it (42 R161 to R167).
-/

namespace Sys2Proof.Machine

/-- `LOAD I,nnn` (42 R161). -/
def execLoadI (nnn : Addr12) (s : State) : Result := .next (s.setI (zext16 nnn)).advance

/-- `ADD I,Vx` (42 R162): modulo 65536, no flag, no fault. -/
def execAddI (x : Reg) (s : State) : Result :=
  .next (s.setI (BitVec.ofNat 16 (s.base + (s.reg x).toNat))).advance

/-- `LOAD_FONT Vx` (42 R163). -/
def execLoadFont (x : Reg) (s : State) : Result :=
  .next (s.setI (BitVec.ofNat 16
    (Config.fontBase + (lowNibble (s.reg x)).toNat * Config.fontGlyphBytes))).advance

/-- `BCD Vx` (42 R164): the three digits at `I`, `I+1`, `I+2`, the whole range checked first. -/
def execBcd (x : Reg) (s : State) : Result := s.complete do
  checkRange s.base 3
  return (s.setRam (s.ram.writeBytes s.base (bcdDigits (s.reg x)))).advance

/-- `REGDUMP Vx` (42 R165, R167). -/
def execRegdump (x : Reg) (s : State) : Result := s.complete do
  checkRange s.base (bulkCount x)
  return ((s.setRam (s.ram.writeBytes s.base (s.bulkRegs x))).setI (s.bulkIndex x)).advance

/-- `REGLOAD Vx` (42 R166, R167). -/
def execRegload (x : Reg) (s : State) : Result := s.complete do
  checkRange s.base (bulkCount x)
  return ((s.setRegs (s.bulkLoaded x)).setI (s.bulkIndex x)).advance

end Sys2Proof.Machine
end

