-- ==== Sys2Proof/Machine/KeyTimer.lean ====
section
/-!
DEFINITION. Keypad and timer instructions, and the poll of a waiting cycle (44 R190 to R199).
-/

namespace Sys2Proof.Machine

/-- `SKP Vx` (44 R191). Log 8. -/
def execSkp (x : Reg) (s : State) : Result := .next (s.skipIf (s.keyDown (lowNibble (s.reg x))))

/-- `SKNP Vx` (44 R192). Log 8. -/
def execSknp (x : Reg) (s : State) : Result := .next (s.skipIf (!s.keyDown (lowNibble (s.reg x))))

/-- `LOAD Vx,DT` (44 R196). -/
def execLoadFromDt (x : Reg) (s : State) : Result := .next (s.setReg x s.dt).advance

/-- `LOAD Vx,K` (44 R194): only enters the wait, `PC` stays. Log 15. -/
def execLoadKey (x : Reg) (s : State) : Result :=
  .next (((s.setWait true).setWreg x).setKprev s.key)

/-- `LOAD DT,Vx` (44 R197). -/
def execLoadDt (x : Reg) (s : State) : Result := .next (s.setDt (s.reg x)).advance

/-- `LOAD ST,Vx` (44 R198): emits no tone signal. -/
def execLoadSt (x : Reg) (s : State) : Result := .next (s.setSt (s.reg x)).advance

/-- The candidate keys of a poll: newly pressed ones in edge mode, any that is down in level mode (44 R195). -/
def State.candidates (s : State) : Word :=
  if s.cfg.keyWaitEdge then s.key &&& ~~~s.kprev else s.key

/-- `WaitPoll`, the whole of a `Cycle` that begins waiting (44 R195): no fetch, and the next instruction is for the
next `Cycle`. -/
def State.waitPoll (s : State) : State :=
  match lowestSet s.candidates with
  | none => s.setKprev s.key
  | some k => (((s.setKprev s.key).setReg s.wreg (BitVec.ofNat 8 k)).advance).setWait false

end Sys2Proof.Machine
end

