-- ==== Sys2Proof/Machine/Dispatch.lean ====
section
/-!
DEFINITION. The meaning of every instruction, one arm a constructor: the body of step 6 and the write of step 7 of a
`Cycle` (40 R120).
-/

namespace Sys2Proof.Machine

def exec (i : Instr) (s : State) : Host.Outcome State Fault Refusal :=
  match i with
  | .clear => Sys2Proof.Machine.execClear s
  | .ret => Sys2Proof.Machine.execRet s
  | .jump nnn => Sys2Proof.Machine.execJump nnn s
  | .call nnn => Sys2Proof.Machine.execCall nnn s
  | .seImm x nn => Sys2Proof.Machine.execSeImm x nn s
  | .sneImm x nn => Sys2Proof.Machine.execSneImm x nn s
  | .seReg x y => Sys2Proof.Machine.execSeReg x y s
  | .loadImm x nn => Sys2Proof.Machine.execLoadImm x nn s
  | .addImm x nn => Sys2Proof.Machine.execAddImm x nn s
  | .loadReg x y => Sys2Proof.Machine.execLoadReg x y s
  | .orReg x y => Sys2Proof.Machine.execOrReg x y s
  | .andReg x y => Sys2Proof.Machine.execAndReg x y s
  | .xorReg x y => Sys2Proof.Machine.execXorReg x y s
  | .addReg x y => Sys2Proof.Machine.execAddReg x y s
  | .sub x y => Sys2Proof.Machine.execSub x y s
  | .shr x y => Sys2Proof.Machine.execShr x y s
  | .subn x y => Sys2Proof.Machine.execSubn x y s
  | .shl x y => Sys2Proof.Machine.execShl x y s
  | .sneReg x y => Sys2Proof.Machine.execSneReg x y s
  | .loadI nnn => Sys2Proof.Machine.execLoadI nnn s
  | .jumpV0 nnn => Sys2Proof.Machine.execJumpV0 nnn s
  | .rand x nn => Sys2Proof.Machine.execRand x nn s
  | .draw x y n => Sys2Proof.Machine.execDraw x y n s
  | .skp x => Sys2Proof.Machine.execSkp x s
  | .sknp x => Sys2Proof.Machine.execSknp x s
  | .loadFromDt x => Sys2Proof.Machine.execLoadFromDt x s
  | .loadKey x => Sys2Proof.Machine.execLoadKey x s
  | .loadDt x => Sys2Proof.Machine.execLoadDt x s
  | .loadSt x => Sys2Proof.Machine.execLoadSt x s
  | .addI x => Sys2Proof.Machine.execAddI x s
  | .loadFont x => Sys2Proof.Machine.execLoadFont x s
  | .bcd x => Sys2Proof.Machine.execBcd x s
  | .regdump x => Sys2Proof.Machine.execRegdump x s
  | .regload x => Sys2Proof.Machine.execRegload x s

end Sys2Proof.Machine
end

