-- ==== Sys2Proof/Machine/Events.lean ====
section
/-!
DEFINITION. The events that are not cycles (60 R230 to R235, 70 R250, R253), and what the outside sees of the core
(60 R236, R237).
-/

namespace Sys2Proof.Machine

/-- The delay timer's part of a `Tick` (60 R230). -/
def State.tickDelay (s : State) : State := if 0 < s.dt.toNat then s.setDt (s.dt - 1) else s

/-- Signal the start of the tone, unless it is on already (60 R230, R231). -/
def State.startTone (s : State) : State := if s.tone then s else s.emit .start true

/-- Signal the end of the tone (60 R230, R231). -/
def State.stopTone (s : State) : State := s.emit .stop false

/-- Signal the end of the tone when the sound timer has reached 0 (60 R230). -/
def State.stopAtZero (s : State) : State := if s.st = 0 then s.stopTone else s

/-- The sound timer's part of a `Tick` (60 R230); the last branch is R232 (log 16). -/
def State.tickSound (s : State) : State :=
  if 0 < s.st.toNat then (s.startTone.setSt (s.st - 1)).stopAtZero
  else if s.tone then s.stopTone
  else s

/-- `Tick` (60 R230): the same in every state of the engine (R233, log 23). -/
def State.tick (s : State) : State := s.tickDelay.tickSound

/-- `KeyRefresh(k)` (60 R234). -/
def State.keyRefresh (s : State) (k : Word) : State := { s with key := k }

/-- `Reset` (70 R250): every element of state at its reset value, from every state. The parameters, the driver's
schedule and the count of draws are not state of the core and stay (logs 1, 2, 3). -/
def State.resetEvent (s : State) : State :=
  { State.reset with cfg := s.cfg, draws := s.draws, pending := s.pending }

/-- `LoadROM(bytes)` (70 R253): copies the image, or faults with nothing copied. A fault already latched is never
replaced (60 R217). Log 5. -/
def State.loadRom (s : State) (bytes : List Byte) : State :=
  if romFits bytes then s.setRam (s.ram.writeBytes Config.progBase bytes)
  else if s.fault.isSome then s
  else s.raise ⟨.romTooLarge, 0⟩

/-- The canonical order of one frame of the driver: `KeyRefresh` once, `Cycle` `n` times, `Tick` once (00_scope R4). -/
def frame (k : Word) (n : Nat) : List Event := .keyRefresh k :: (List.replicate n .cycle ++ [.tick])

/-- The pixel at column `px`, row `py` (10_state R39). -/
def State.pixel (s : State) (px py : Nat) : Bool := fbGet s.fb (py * Config.fbWidth + px)

/-- `fb_out`: the presentation snapshot, a row-major sequence of 2048 pixels (60 R236). -/
def State.snapshot (s : State) : List Bool := (List.range 2048).map (fun i => fbGet s.fb i)

/-- `tone_on`: the level `TONE` (60 R237). -/
def State.toneOn (s : State) : Bool := s.tone

/-- `fault_out`: the cause code and `info` (60 R237). With no fault latched the code is 0, as R237 says; the information
bits are then stated nowhere, and the model leaves them free (DESIGN CHOICE, log 32). -/
def State.faultOut (s : State) : BitVec 3 × Word :=
  match s.fault with
  | none => (0, Config.idleFaultInfo)
  | some f => (f.cause.code, f.info)

end Sys2Proof.Machine
end

