-- ==== Sys2Proof/Machine/Cycle.lean ====
section
/-!
DEFINITION. One `Cycle` (40 R120) and one event of any kind (00_scope R3).
-/

namespace Sys2Proof.Machine

/-- Steps 4 to 7 of a `Cycle`: decode the fetched word and run it (40 R120). -/
def State.runWord (s : State) (w : Word) : Result :=
  match decode w with
  | .op i => exec i s
  | _ => .next (s.raise ⟨.decodeError, w⟩)

/-- One `Cycle` (40 R120): nothing while faulted, one poll while waiting, else fetch, decode and execute. The order
of the checks is 60 R219. -/
def State.cycle (s : State) : Result :=
  if s.fault.isSome then .next s
  else if s.wait then .next s.waitPoll
  else match s.fetch with
    | .error f => .next (s.raise f)
    | .ok w => s.runWord w

/-- One event, from start to end (00_scope R3). -/
def State.runEvent (s : State) : Event → Result
  | .cycle => s.cycle
  | .tick => .next s.tick
  | .keyRefresh k => .next (s.keyRefresh k)
  | .reset => .next s.resetEvent
  | .loadRom bytes => .next (s.loadRom bytes)

/-- Where the next instruction is fetched from when the very next step is to run it: `PC`, or the entry point where
no word can be fetched at `PC` (20_memory R67, 70 R252). -/
def State.fetchPoint (s : State) : Word :=
  if s.pc.toNat + 2 ≤ Config.ramSize then s.pc else BitVec.ofNat 16 Config.progBase

/-- Two bytes of a program word laid out at `a` in RAM order (20_memory R69). -/
def Memory.placeWord (m : Memory) (a : Nat) (w : Word) : Memory := m.writeBytes a [highByte w, lowByte w]

end Sys2Proof.Machine
end

