-- ==== Sys2Proof/Machine/Step.lean ====
section
/-!
DEFINITION. The step of the machine: the driver's next event.
-/

namespace Sys2Proof.Machine

/-- One step runs the oldest pending event, and a `Cycle` when none is pending (00_scope R3, R4; log 1). -/
def step (s : State) : Host.Outcome State Fault Refusal :=
  match s.pending with
  | [] => s.cycle
  | e :: rest => (s.setPending rest).runEvent e

/-- `s` with the word of an opcode-table row where the next step fetches it, and with nothing in the way of that
fetch: no pending event, no latched fault, no key wait, and `PC` at an address a word can be fetched from (log 21). -/
def State.withFetchWord (s : State) (nbits w : Nat) : State :=
  { s with
    ram := s.ram.placeWord s.fetchPoint.toNat (tableWord nbits w)
    pc := s.fetchPoint
    fault := none
    wait := false
    pending := [] }

end Sys2Proof.Machine
end

