-- ==== Sys2Proof/Safety.lean ====
section
/-!
DEFINITION. The terms claims use: a safe state, the parts of a state and what a change leaves alone, the access matrix
of 10_state R46, and the invariant of the machine.
-/

namespace Sys2Proof.Machine

/-- A run has not gone wrong: no fault is latched (60 R217: "a model treats it as gone wrong for every claim"). -/
def Safe (s : State) : Prop := s.fault = none

/-- The engine is ready to fetch: neither faulted nor waiting (40 R120 steps 1 and 2). -/
def Running (s : State) : Prop := s.fault = none ∧ s.wait = false

/-- The parts of a state, memory byte by byte and registers one by one. -/
inductive Part where
  | v (r : Reg)
  | i
  | pc
  | stack
  | dt
  | st
  | ram (a : Nat)
  | fb
  | key
  | wait
  | wreg
  | kprev
  | tone
  | fault
  | cfg
  | draws
  | tones
  | pending
  deriving DecidableEq, Repr

/-- The part holds the same in both states; a byte of memory is what reading its address gives. -/
def Part.same : Part → State → State → Prop
  | .v r, s, t => t.reg r = s.reg r
  | .i, s, t => t.i = s.i
  | .pc, s, t => t.pc = s.pc
  | .stack, s, t => t.stack = s.stack
  | .dt, s, t => t.dt = s.dt
  | .st, s, t => t.st = s.st
  | .ram a, s, t => t.ram.read a = s.ram.read a
  | .fb, s, t => t.fb = s.fb
  | .key, s, t => t.key = s.key
  | .wait, s, t => t.wait = s.wait
  | .wreg, s, t => t.wreg = s.wreg
  | .kprev, s, t => t.kprev = s.kprev
  | .tone, s, t => t.tone = s.tone
  | .fault, s, t => t.fault = s.fault
  | .cfg, s, t => t.cfg = s.cfg
  | .draws, s, t => t.draws = s.draws
  | .tones, s, t => t.tones = s.tones
  | .pending, s, t => t.pending = s.pending

/-- From `s` to `t` only the parts in `w` may have changed: every other register, every other byte of memory and
every other element holds the same. -/
def ChangesOnly (w : Part → Prop) (s t : State) : Prop := ∀ p, ¬ w p → p.same s t

/-- The byte at `a` is one of the `n` bytes from the address in `I` up (42 R160). -/
def InDataRange (s : State) (n a : Nat) : Prop := s.base ≤ a ∧ a < s.base + n

/-- The access that an instruction makes through `I`, in bytes (20_memory R72). -/
def dataLength : Instr → Nat
  | .draw _ _ n => n.toNat
  | .bcd _ => 3
  | .regdump x => bulkCount x
  | .regload x => bulkCount x
  | _ => 0

/-- The columns marked W of 10_state R46, with `PC`, for an instruction that does not fault. `LOAD Vx,K` does not
move `PC`; the cells marked (W) stand under their condition. -/
def Writes (i : Instr) (s : State) (p : Part) : Prop :=
  match i with
  | .clear => p = .fb ∨ p = .pc
  | .ret | .call _ => p = .stack ∨ p = .pc
  | .jump _ | .jumpV0 _ | .seImm _ _ | .sneImm _ _ | .seReg _ _ | .sneReg _ _ | .skp _ | .sknp _ => p = .pc
  | .loadImm x _ | .addImm x _ | .loadReg x _ | .orReg x _ | .andReg x _ | .xorReg x _ | .loadFromDt x =>
    p = .v x ∨ p = .pc
  | .addReg x _ | .sub x _ | .shr x _ | .subn x _ | .shl x _ => p = .v x ∨ p = .v flagReg ∨ p = .pc
  | .loadI _ | .addI _ | .loadFont _ => p = .i ∨ p = .pc
  | .rand x _ => p = .v x ∨ p = .draws ∨ p = .pc
  | .draw _ _ _ => p = .fb ∨ p = .v flagReg ∨ p = .pc
  | .loadKey _ => p = .wait ∨ p = .wreg ∨ p = .kprev
  | .loadDt _ => p = .dt ∨ p = .pc
  | .loadSt _ => p = .st ∨ p = .pc
  | .bcd _ => (∃ a, p = .ram a ∧ InDataRange s 3 a) ∨ p = .pc
  | .regdump x =>
    (∃ a, p = .ram a ∧ InDataRange s (bulkCount x) a) ∨ (p = .i ∧ s.cfg.indexIncrementOnBulk = true) ∨ p = .pc
  | .regload x =>
    (∃ r : Reg, p = .v r ∧ r.toNat ≤ x.toNat) ∨ (p = .i ∧ s.cfg.indexIncrementOnBulk = true) ∨ p = .pc

/-- The columns marked R of 10_state R46, with `PC`; the bulk transfers also read their parameter, and `RAND` the
counter that names its draw. -/
def Reads (i : Instr) (s : State) (p : Part) : Prop :=
  match i with
  | .clear | .jump _ | .loadImm _ _ | .loadI _ => p = .pc
  | .ret | .call _ => p = .stack ∨ p = .pc
  | .jumpV0 _ => p = .v 0 ∨ p = .pc
  | .seImm x _ | .sneImm x _ | .addImm x _ => p = .v x ∨ p = .pc
  | .seReg x y | .sneReg x y | .orReg x y | .andReg x y | .xorReg x y | .addReg x y | .sub x y | .subn x y =>
    p = .v x ∨ p = .v y ∨ p = .pc
  | .loadReg _ y | .shr _ y | .shl _ y => p = .v y ∨ p = .pc
  | .rand _ _ => p = .draws ∨ p = .pc
  | .draw x y n =>
    p = .v x ∨ p = .v y ∨ p = .i ∨ (∃ a, p = .ram a ∧ InDataRange s n.toNat a) ∨ p = .fb ∨ p = .pc
  | .skp x | .sknp x => p = .v x ∨ p = .key ∨ p = .pc
  | .loadFromDt _ => p = .dt ∨ p = .pc
  | .loadKey _ => p = .key ∨ p = .pc
  | .loadDt x | .loadSt x | .loadFont x => p = .v x ∨ p = .pc
  | .addI x | .bcd x => p = .v x ∨ p = .i ∨ p = .pc
  | .regdump x => (∃ r : Reg, p = .v r ∧ r.toNat ≤ x.toNat) ∨ p = .i ∨ p = .cfg ∨ p = .pc
  | .regload x => (∃ a, p = .ram a ∧ InDataRange s (bulkCount x) a) ∨ p = .i ∨ p = .cfg ∨ p = .pc

/-- The sprite of `DRAW Vx,Vy,N` has a set bit that lands on pixel `(px, py)`: the sprite row is the distance down
from the start row modulo 32, the sprite column the distance right from the start column modulo 64 (43 R182, R184). -/
def SpriteCovers (s : State) (x y : Reg) (n : BitVec 4) (px py : Nat) : Bool :=
  let r := (py + Config.fbHeight - s.spriteY y) % Config.fbHeight
  let j := (px + Config.fbWidth - s.spriteX x) % Config.fbWidth
  decide (r < n.toNat) && decide (j < 8) && (s.ram.read (s.base + r)).getLsbD (7 - j)

/-- The level that a history of tone pulses implies, from silence; `none` when starts and stops do not alternate,
beginning with a start (60 R231). -/
def replayTones : Bool → List ToneSignal → Option Bool
  | level, [] => some level
  | false, .start :: l => replayTones true l
  | true, .stop :: l => replayTones false l
  | _, _ :: _ => none

/-- The fault latch holds what 60 R210 says a cause records. -/
def FaultRecord.Proper (f : FaultRecord) : Prop :=
  match f.cause with
  | .decodeError => Word.legal f.info = false
  | .outOfRange => Config.ramSize ≤ f.info.toNat
  | .stackOverflow | .stackUnderflow | .romTooLarge => f.info = 0
  | .unknownKeyCode => False

/-- Control state stays in its bounds: at most 16 return addresses, none above 4096, `PC` at most 4350 so that it
never wraps (10_state R26, R28), and a waiting engine stands at an instruction it could fetch (40 R120, 44 R194). -/
def ControlInv (s : State) : Prop :=
  s.sp ≤ Config.stackDepth ∧ (∀ a ∈ s.stack, a.toNat ≤ 4096) ∧ s.pc.toNat ≤ 4350 ∧
    (s.wait = true → s.pc.toNat ≤ 4094)

/-- The tone level is what the pulses imply, starts and stops alternating from a start (60 R231). -/
def ToneInv (s : State) : Prop := replayTones false s.tones = some s.tone

/-- A latched fault is one that a rule raises, with the information it records (60 R210, 44 R193). -/
def FaultInv (s : State) : Prop := ∀ f, s.fault = some f → f.Proper

/-- The driver's next event is a `Cycle`, and `rest` is what it raises after it (log 1). -/
def CycleNext (s : State) (rest : List Event) : Prop :=
  (s.pending = [] ∧ rest = []) ∨ s.pending = .cycle :: rest

/-- The next step executes the instruction `i` (40 R120 steps 1 to 6). -/
def Executes (s : State) (i : Instr) : Prop :=
  (∃ rest, CycleNext s rest) ∧ Running s ∧ s.pc.toNat + 2 ≤ Config.ramSize ∧ decode s.wordAtPc = .op i

/-- The next event is a `Reset`. -/
def ResetNext (s : State) : Prop := ∃ rest, s.pending = .reset :: rest

end Sys2Proof.Machine
end

