-- ==== Sys2Proof/Certificates/Slice0/Obligations.lean ====
section
/-!
DEFINITION. The statements for the provers. A premise `s.ram.wf` is the memory invariant that
`Obligations.StepKeepsMemoryCanonical` says every step keeps and `Obligations.ResetMeetsInvariants` says reset has.
-/

open Sys2Proof Sys2Proof.Machine

/-! ### Encoding -/

/-- Decoding the word the encoder makes of an instruction gives that instruction, whatever its operands
(30_encoding R100, R101). -/
def Obligations.DecodeEncodeRoundTrip : Prop :=
  ∀ i : Instr, decode (encode i) = .op i

/-- The decode algorithm (30_encoding R101) answers an instruction of a row exactly for the words that match the row's
mask and pattern (R100), and no word matches two rows. The map is the spec's decision D1 (log 6). -/
def Obligations.DecodeAgreesWithOpcodeMap : Prop :=
  (∀ (w : Word) (r : OpcodeRow), r ∈ opcodeTable →
    (w &&& r.mask = r.pattern ↔ ∃ i, decode w = .op i ∧ i.mnemonic = r.mnemonic)) ∧
  (∀ (w : Word) (r q : OpcodeRow), r ∈ opcodeTable → q ∈ opcodeTable →
    w &&& r.mask = r.pattern → w &&& q.mask = q.pattern → r = q)

/-- A decoded word is the instruction's own encoding, but for the low nibble that the decoder ignores in `5xy-` and
`9xy-` (30_encoding R100, R104; D3, log 9): no other bit of a word is dropped. -/
def Obligations.DecodedWordIsItsEncoding : Prop :=
  ∀ (w : Word) (i : Instr), decode w = .op i →
    encode i = if (fieldsOf w).op = 5#4 ∨ (fieldsOf w).op = 9#4 then w &&& 0xFFF0#16 else w

/-- The illegal words, exhaustively (30_encoding R102, R103): the decoder answers `DecodeError` with the word itself
for these and an operation for every other word. They follow from the spec's decisions D1, D2 and D3 (logs 6, 9). -/
def Obligations.IllegalWordsAreExactlyThese : Prop :=
  ∀ w : Word,
    ((decode w = .decodeError w) ↔
      ((fieldsOf w).op = 0x0#4 ∧ (fieldsOf w).nnn ≠ 0x0E0#12 ∧ (fieldsOf w).nnn ≠ 0x0EE#12) ∨
      ((fieldsOf w).op = 0x8#4 ∧
        (fieldsOf w).n ∈ [0x8#4, 0x9#4, 0xA#4, 0xB#4, 0xC#4, 0xD#4, 0xF#4]) ∨
      ((fieldsOf w).op = 0xE#4 ∧ (fieldsOf w).nn ∉ [0x9E#8, 0xA1#8]) ∨
      ((fieldsOf w).op = 0xF#4 ∧
        (fieldsOf w).nn ∉ [0x07#8, 0x0A#8, 0x15#8, 0x18#8, 0x1E#8, 0x29#8, 0x33#8, 0x55#8, 0x65#8])) ∧
    ((∃ i, decode w = .op i) ↔ decode w ≠ .decodeError w)

/-- A word of each family, written out from 30_encoding R93 and R100 (D1, log 6), decodes to the instruction it stands
for. -/
def Obligations.SampleWordsDecode : Prop :=
  decode 0b0000000011101110#16 = .op .ret ∧
  decode 0b0010001100000000#16 = .op (.call 0x300) ∧
  decode 0b0110101000101111#16 = .op (.loadImm 10 47) ∧
  decode 0b1000000000010100#16 = .op (.addReg 0 1) ∧
  decode 0b1010001100000000#16 = .op (.loadI 0x300) ∧
  decode 0b1111001001100101#16 = .op (.regload 2) ∧
  decode 0b1101010110100011#16 = .op (.draw 5 10 3) ∧
  decode 0b1110001010011110#16 = .op (.skp 2) ∧
  decode 0b1111000100000111#16 = .op (.loadFromDt 1)

/-! ### The step -/

/-- When the engine is running and the two bytes at `PC` decode to an instruction, the step is that instruction's
`exec`, on the state whose pending events are those after this `Cycle` (40 R120). -/
def Obligations.StepRunsDecodedInstruction : Prop :=
  ∀ (s : State) (rest : List Event) (i : Instr), CycleNext s rest → Running s →
    s.pc.toNat + 2 ≤ 4096 →
    decode (wordOfBytes (s.ram.read s.pc.toNat) (s.ram.read (s.pc.toNat + 1))) = .op i →
    step s = exec i { s with pending := rest }

/-- Every step answers a next state: the faults of 60 R210 are latched, never the end of the run (60 R212), and no
instruction is refused. -/
def Obligations.EveryStepAnswersNextState : Prop :=
  ∀ s : State, ∃ t, step s = .next t

/-- R67: a fetch reads the two bytes at `PC`, the first in the high half; with `PC` at 4095 or above it faults as a
whole with the address `max(PC, 4096)`, and the cycle changes nothing but the fault latch, `PC` included. -/
def Obligations.FetchReadsWordOrFaults : Prop :=
  (∀ s : State, s.pc.toNat < 4095 →
    ∃ w : Word, s.fetch = .ok w ∧
      w.toNat = (s.ram.read s.pc.toNat).toNat * 256 + (s.ram.read (s.pc.toNat + 1)).toNat) ∧
  (∀ (s : State) (rest : List Event), CycleNext s rest → Running s → 4095 ≤ s.pc.toNat →
    s.fetch = .error ⟨.outOfRange, BitVec.ofNat 16 (max s.pc.toNat 4096)⟩ ∧
    step s = .next { s with
      pending := rest
      fault := some ⟨.outOfRange, BitVec.ofNat 16 (max s.pc.toNat 4096)⟩ })

/-- A fetched word that matches no row of the opcode map (30_encoding R102; the map is D1, log 6) latches
`DecodeError` with the word and changes nothing else, `PC` included. -/
def Obligations.IllegalWordFaults : Prop :=
  ∀ (s : State) (rest : List Event), CycleNext s rest → Running s → s.pc.toNat + 2 ≤ 4096 →
    (∀ r ∈ opcodeTable, s.wordAtPc &&& r.mask ≠ r.pattern) →
    decode s.wordAtPc = .decodeError s.wordAtPc ∧
    step s = .next { s with pending := rest, fault := some ⟨.decodeError, s.wordAtPc⟩ }

/-- A `Cycle` while a fault is latched does nothing at all, and no event but `Reset` clears or replaces the fault
(60 R217; that a failing `LoadROM` keeps the first fault is the model's choice, log 5). -/
def Obligations.FaultStaysUntilReset : Prop :=
  (∀ (s : State) (rest : List Event), CycleNext s rest → s.fault ≠ none →
    step s = .next { s with pending := rest }) ∧
  (∀ (s t : State) (f : FaultRecord), s.fault = some f → ¬ ResetNext s → step s = .next t →
    t.fault = some f)

/-- A fault raised by a `Cycle` changes nothing but the fault latch: after a step from a running state either no fault
is latched or every element of state is as before (60 R212; no partial effect is the spec's decision D8, log 13). -/
def Obligations.FaultsArePrecise : Prop :=
  ∀ (s t : State) (rest : List Event), CycleNext s rest → Running s → step s = .next t →
    t.fault = none ∨ ∃ f, t = { s with pending := rest, fault := some f }

/-- The word placed by `withFetchWord` is the one the next step runs (the model's program load, log 21). -/
def Obligations.PlacedWordIsRunNext : Prop :=
  ∀ (s : State) (w : Word) (i : Instr), s.ram.wf → decode w = .op i →
    step (s.withFetchWord 16 w.toNat) = exec i (s.withFetchWord 16 w.toNat)

/-! ### The wait for a key -/

/-- A waiting cycle with no candidate key changes nothing but `KPREV`; with candidates it delivers the lowest one to
`V[WREG]`, advances `PC` by 2 and ends the wait. The candidates are the newly pressed keys in edge mode and the keys
that are down in level mode (44 R195; the mechanism is the spec's decisions D10 and D11, log 15). -/
def Obligations.WaitPollDeliversLowestKey : Prop :=
  ∀ (s : State) (rest : List Event), CycleNext s rest → s.fault = none → s.wait = true →
    (s.candidates = if s.cfg.keyWaitEdge then s.key &&& ~~~s.kprev else s.key) ∧
    (s.candidates = 0 → step s = .next { s with pending := rest, kprev := s.key }) ∧
    (∀ k < 16, s.candidates.getLsbD k = true → (∀ j < k, s.candidates.getLsbD j = false) →
      ∃ t, step s = .next t ∧ (t.reg s.wreg).toNat = k ∧ t.pc = s.pc + 2 ∧ t.wait = false ∧
        t.kprev = s.key ∧ t.pending = rest ∧
        ChangesOnly (fun p => p = .v s.wreg ∨ p = .pc ∨ p = .wait ∨ p = .kprev ∨ p = .pending) s t)

/-- In edge mode the number of polls between two key refreshes has no effect: a poll that leaves the engine waiting is
followed by polls that change nothing (44 R199 (g)). -/
def Obligations.EdgePollsOfSameKeysChangeNothing : Prop :=
  ∀ s t : State, s.pending = [] → s.fault = none → s.wait = true → s.cfg.keyWaitEdge = true →
    step s = .next t → t.wait = true → step t = .next t

/-! ### Events from outside -/

/-- A `Tick` (60 R230, R233) counts each timer down to 0 and no further, leaves the tone on exactly while the sound
timer has more than one tick to go, and emits a start pulse when a silent tone sounds, then a stop pulse when it ends.
It does so in every state of the engine and touches nothing else. What happens beyond the source's two cases is D14
and D15 (logs 16, 23). -/
def Obligations.TickCountsTimersAndDrivesTone : Prop :=
  ∀ (s : State) (rest : List Event), s.pending = .tick :: rest →
    ∃ t, step s = .next t ∧ t.dt.toNat = s.dt.toNat - 1 ∧ t.st.toNat = s.st.toNat - 1 ∧
      t.tone = decide (1 < s.st.toNat) ∧
      t.tones = s.tones ++
        (if 0 < s.st.toNat ∧ s.tone = false then [ToneSignal.start] else []) ++
        (if s.st.toNat = 1 ∨ (s.st.toNat = 0 ∧ s.tone = true) then [ToneSignal.stop] else []) ∧
      t.pending = rest ∧
      ChangesOnly (fun p => p = .dt ∨ p = .st ∨ p = .tone ∨ p = .tones ∨ p = .pending) s t

/-- R234: `KeyRefresh(k)` loads the key latch and changes nothing else. -/
def Obligations.KeyRefreshLoadsLatch : Prop :=
  ∀ (s : State) (k : Word) (rest : List Event), s.pending = .keyRefresh k :: rest →
    step s = .next { s with pending := rest, key := k }

/-- From every state, faulted or not, `Reset` makes every element of state what it is after reset, and emits no tone
pulse (70 R250; D16, log 17); the parameters, the count of draws and the driver's schedule are not elements of the
core (logs 1 to 3). -/
def Obligations.ResetRestoresEveryElement : Prop :=
  ∀ (s : State) (rest : List Event), s.pending = .reset :: rest →
    ∃ t, step s = .next t ∧
      ChangesOnly (fun p => p = .cfg ∨ p = .draws ∨ p = .pending) State.reset t ∧
      t.cfg = s.cfg ∧ t.draws = s.draws ∧ t.pending = rest

/-- The reset values (10_state R44). The zeros that the source calls "cleared" are the spec's decision D16 (log 17),
the font bytes D18 (log 7). -/
def Obligations.ResetValues : Prop :=
  (∀ r : Reg, State.reset.reg r = 0) ∧ State.reset.i = 0 ∧ State.reset.pc = 512 ∧ State.reset.sp = 0 ∧
  State.reset.dt = 0 ∧ State.reset.st = 0 ∧
  (∀ a, a < 80 ∨ 160 ≤ a → State.reset.ram.read a = 0) ∧
  (∀ k < 80, some (State.reset.ram.read (80 + k)) = fontTable[k]?) ∧
  (∀ i < 2048, fbGet State.reset.fb i = false) ∧ State.reset.key = 0 ∧ State.reset.wait = false ∧
  State.reset.wreg = 0 ∧ State.reset.kprev = 0 ∧ State.reset.tone = false ∧ State.reset.fault = none

/-- `LoadROM` (70 R253) puts byte `i` of an image that fits at `512 + i` and writes nothing else; an image of more
than 3584 bytes copies nothing and latches `ROMTooLarge` on a core with no fault latched. That it does so at every
time is the model's choice (log 5). -/
def Obligations.LoadRomCopiesOrFaults : Prop :=
  ∀ (s : State) (bytes : List Byte) (rest : List Event), s.ram.wf → s.pending = .loadRom bytes :: rest →
    (bytes.length ≤ 3584 →
      ∃ t, step s = .next t ∧ (∀ k < bytes.length, some (t.ram.read (512 + k)) = bytes[k]?) ∧
        t.pending = rest ∧
        ChangesOnly (fun p => (∃ a, p = .ram a ∧ 512 ≤ a ∧ a < 512 + bytes.length) ∨ p = .pending) s t) ∧
    (3584 < bytes.length → s.fault = none →
      step s = .next { s with pending := rest, fault := some ⟨.romTooLarge, 0⟩ })

/-- `Reset` erases the program: a `Cycle` straight after it faults with `DecodeError(0x0000)` at 512 (70 R251;
D17, log 18). -/
def Obligations.CycleAfterResetFaults : Prop :=
  ∀ (s : State) (rest : List Event), s.pending = .reset :: .cycle :: rest →
    ∃ t u, step s = .next t ∧ step t = .next u ∧ u.fault = some ⟨.decodeError, 0⟩ ∧ u.pc = 512

/-- The launch: `Reset` and then one `LoadROM` leave the reset state with the image in RAM from 512 up (70 R254). -/
def Obligations.LaunchLoadsProgramAtEntryPoint : Prop :=
  ∀ (s : State) (bytes : List Byte) (rest : List Event), bytes.length ≤ 3584 →
    s.pending = .reset :: .loadRom bytes :: rest →
    ∃ t u, step s = .next t ∧ step t = .next u ∧ u.pc = 512 ∧ Running u ∧
      (∀ k < bytes.length, some (u.ram.read (512 + k)) = bytes[k]?) ∧
      ChangesOnly (fun p => (∃ a, p = .ram a ∧ 512 ≤ a ∧ a < 512 + bytes.length) ∨
        p = .cfg ∨ p = .draws ∨ p = .pending) State.reset u

/-! ### Invariants and rules of the whole machine -/

/-- Every step keeps memory in its canonical form: addresses rising and inside RAM, no entry equal to what its address
reads as when it is unlisted (the model's form of 20_memory R60, log 20). -/
def Obligations.StepKeepsMemoryCanonical : Prop :=
  ∀ s t : State, s.ram.wf → step s = .next t → t.ram.wf

/-- Every step keeps at most 16 return addresses, none above 4096, `PC` at most 4350, and a waiting engine at an
instruction it could fetch (10_state R26, R28): `PC` never wraps. -/
def Obligations.StepKeepsControlBounds : Prop :=
  ∀ s t : State, ControlInv s → step s = .next t → ControlInv t

/-- Starts and stops strictly alternate, beginning with a start, and `TONE` is the level they imply (60 R231), over
the pulses since the last `Reset`. -/
def Obligations.StepKeepsTonePulsesAlternating : Prop :=
  ∀ s t : State, ToneInv s → step s = .next t → ToneInv t

/-- Every fault a step latches is one of the causes that a rule raises, with what 60 R210 says it records;
`UnknownKeyCode` is never raised (44 R193). -/
def Obligations.StepKeepsFaultsProper : Prop :=
  ∀ s t : State, FaultInv s → step s = .next t → FaultInv t

/-- The state after reset meets the four invariants. -/
def Obligations.ResetMeetsInvariants : Prop :=
  State.reset.ram.wf ∧ ControlInv State.reset ∧ ToneInv State.reset ∧ FaultInv State.reset

/-- The W columns of the access matrix (10_state R46): an instruction that does not fault changes nothing outside its
row, and a faulting instruction writes only `FAULT`. -/
def Obligations.InstructionsWriteOnlyTheirRow : Prop :=
  ∀ (i : Instr) (s t : State), s.ram.wf → exec i s = .next t →
    ChangesOnly (Writes i s) s t ∨ ∃ f, t = { s with fault := some f }

/-- The R columns of the access matrix (10_state R46): from two states that agree on what its row reads, an
instruction faults in both or in neither, and writes the same values into every part of its row. -/
def Obligations.InstructionsReadOnlyTheirRow : Prop :=
  ∀ (i : Instr) (s₁ s₂ t₁ t₂ : State), s₁.ram.wf → s₂.ram.wf → (∀ p, Reads i s₁ p → p.same s₁ s₂) →
    exec i s₁ = .next t₁ → exec i s₂ = .next t₂ →
    (∃ f, t₁ = { s₁ with fault := some f } ∧ t₂ = { s₂ with fault := some f }) ∨
    (ChangesOnly (Writes i s₁) s₁ t₁ ∧ ChangesOnly (Writes i s₁) s₂ t₂ ∧
      ∀ p, Writes i s₁ p → p.same t₁ t₂)

/-- Who may change what, over every event (43 R186 for `FB`, 10_state R32 for `KEY`, R36 for `TONE`, R30 for `DT`, R31
for `ST`, R28 for the stack, 20_memory R72 for RAM). -/
def Obligations.OnlyNamedEventsChangeEachElement : Prop :=
  ∀ s t : State, s.ram.wf → step s = .next t → ¬ ResetNext s →
    (t.fb ≠ s.fb → Executes s .clear ∨ ∃ x y n, Executes s (.draw x y n)) ∧
    (t.key ≠ s.key → ∃ k rest, s.pending = .keyRefresh k :: rest) ∧
    (t.tone ≠ s.tone → ∃ rest, s.pending = .tick :: rest) ∧
    (t.dt ≠ s.dt → (∃ rest, s.pending = .tick :: rest) ∨ ∃ x, Executes s (.loadDt x)) ∧
    (t.st ≠ s.st → (∃ rest, s.pending = .tick :: rest) ∨ ∃ x, Executes s (.loadSt x)) ∧
    (t.stack ≠ s.stack → Executes s .ret ∨ ∃ nnn, Executes s (.call nnn)) ∧
    (∀ a, t.ram.read a ≠ s.ram.read a →
      (∃ bytes rest, s.pending = .loadRom bytes :: rest) ∨ (∃ x, Executes s (.bcd x)) ∨
        ∃ x, Executes s (.regdump x)) ∧
    t.cfg = s.cfg

/-! ### Control flow -/

/-- R122: `RETURN` pops the most recent return address into `PC` as it is; on an empty stack it latches
`StackUnderflow` and changes nothing else. -/
def Obligations.ReturnPopsReturnAddress : Prop :=
  ∀ s : State,
    (∀ a, 0 < s.sp → s.stackCell (s.sp - 1) = some a →
      ∃ t, exec .ret s = .next t ∧ t.pc = a ∧ t.sp + 1 = s.sp ∧
        (∀ k < t.sp, t.stackCell k = s.stackCell k) ∧
        ChangesOnly (fun p => p = .pc ∨ p = .stack) s t) ∧
    (s.sp = 0 → exec .ret s = .next { s with fault := some ⟨.stackUnderflow, 0⟩ })

/-- `CALL nnn` (40 R124) pushes the address of the instruction after itself (D4, log 12) and sets `PC` to `nnn`; with
16 live entries it latches `StackOverflow` and changes nothing else. -/
def Obligations.CallPushesReturnAddress : Prop :=
  ∀ (nnn : Addr12) (s : State),
    (s.sp < 16 →
      ∃ t, exec (.call nnn) s = .next t ∧ t.pc.toNat = nnn.toNat ∧ t.sp = s.sp + 1 ∧
        t.stackCell s.sp = some (s.pc + 2) ∧ (∀ k < s.sp, t.stackCell k = s.stackCell k) ∧
        ChangesOnly (fun p => p = .pc ∨ p = .stack) s t) ∧
    (16 ≤ s.sp → exec (.call nnn) s = .next { s with fault := some ⟨.stackOverflow, 0⟩ })

/-- A `RETURN` after a `CALL` goes to the instruction after the `CALL` and leaves everything else as it was
(40 R122, R124). -/
def Obligations.ReturnUndoesCall : Prop :=
  ∀ (nnn : Addr12) (s : State), s.sp < 16 →
    ∃ t u, exec (.call nnn) s = .next t ∧ exec .ret t = .next u ∧ u.pc = s.pc + 2 ∧
      ChangesOnly (fun p => p = .pc) s u

/-- R123 and R125: `JUMP nnn` sets `PC` to `nnn`, `JUMP V0,nnn` to the sum of `V[0]` and `nnn` with no reduction to 12
bits; nothing else changes. -/
def Obligations.JumpsSetPc : Prop :=
  ∀ (nnn : Addr12) (s : State),
    (∃ t, exec (.jump nnn) s = .next t ∧ t.pc.toNat = nnn.toNat ∧ ChangesOnly (fun p => p = .pc) s t) ∧
    (∃ t, exec (.jumpV0 nnn) s = .next t ∧ t.pc.toNat = (s.reg 0).toNat + nnn.toNat ∧
      ChangesOnly (fun p => p = .pc) s t)

/-- The four register skips (40 R126 to R129) add 4 to `PC` when their condition holds and 2 when it does not; nothing
else changes. Which mnemonic has which condition is the spec's decision D27 (log 8). -/
def Obligations.SkipsCompareRegisters : Prop :=
  ∀ (x y : Reg) (nn : Byte) (s : State),
    (∃ t, exec (.seImm x nn) s = .next t ∧
      t.pc = (if (s.reg x).toNat = nn.toNat then s.pc + 4 else s.pc + 2) ∧ ChangesOnly (fun p => p = .pc) s t) ∧
    (∃ t, exec (.sneImm x nn) s = .next t ∧
      t.pc = (if (s.reg x).toNat = nn.toNat then s.pc + 2 else s.pc + 4) ∧ ChangesOnly (fun p => p = .pc) s t) ∧
    (∃ t, exec (.seReg x y) s = .next t ∧
      t.pc = (if (s.reg x).toNat = (s.reg y).toNat then s.pc + 4 else s.pc + 2) ∧
      ChangesOnly (fun p => p = .pc) s t) ∧
    (∃ t, exec (.sneReg x y) s = .next t ∧
      t.pc = (if (s.reg x).toNat = (s.reg y).toNat then s.pc + 2 else s.pc + 4) ∧
      ChangesOnly (fun p => p = .pc) s t)

/-- `SKP` skips when the key that the low four bits of `V[x]` name is down in the latch, `SKNP` when it is not;
nothing but `PC` changes (44 R191, R192; the polarity is the spec's decision D27, log 8). -/
def Obligations.SkipsTestKeyLatch : Prop :=
  ∀ (x : Reg) (s : State),
    (∃ t, exec (.skp x) s = .next t ∧
      t.pc = (if s.key.getLsbD ((s.reg x).toNat % 16) = true then s.pc + 4 else s.pc + 2) ∧
      ChangesOnly (fun p => p = .pc) s t) ∧
    (∃ t, exec (.sknp x) s = .next t ∧
      t.pc = (if s.key.getLsbD ((s.reg x).toNat % 16) = true then s.pc + 2 else s.pc + 4) ∧
      ChangesOnly (fun p => p = .pc) s t)

/-! ### Load, arithmetic and logic -/

/-- R141 and R142: `LOAD Vx,NN` and `LOAD Vx,Vy` assign the register, `PC` moves by 2, nothing else changes; with `x =
15` the value goes to `VF` as to any register. -/
def Obligations.RegisterLoadsAssign : Prop :=
  ∀ (x y : Reg) (nn : Byte) (s : State),
    (∃ t, exec (.loadImm x nn) s = .next t ∧ t.reg x = nn ∧ t.pc = s.pc + 2 ∧
      ChangesOnly (fun p => p = .v x ∨ p = .pc) s t) ∧
    (∃ t, exec (.loadReg x y) s = .next t ∧ t.reg x = s.reg y ∧ t.pc = s.pc + 2 ∧
      ChangesOnly (fun p => p = .v x ∨ p = .pc) s t)

/-- R143: `ADD Vx,NN` adds modulo 256 and touches no flag. -/
def Obligations.AddImmediateIsModular : Prop :=
  ∀ (x : Reg) (nn : Byte) (s : State),
    ∃ t, exec (.addImm x nn) s = .next t ∧ (t.reg x).toNat = ((s.reg x).toNat + nn.toNat) % 256 ∧
      t.pc = s.pc + 2 ∧ ChangesOnly (fun p => p = .v x ∨ p = .pc) s t

/-- R145 to R147: `OR`, `AND` and `XOR` work bit by bit and leave `VF` alone unless it is their destination. -/
def Obligations.BitwiseOperationsActPerBit : Prop :=
  ∀ (x y : Reg) (s : State),
    (∃ t, exec (.orReg x y) s = .next t ∧
      (∀ j < 8, (t.reg x).getLsbD j = ((s.reg x).getLsbD j || (s.reg y).getLsbD j)) ∧ t.pc = s.pc + 2 ∧
      ChangesOnly (fun p => p = .v x ∨ p = .pc) s t) ∧
    (∃ t, exec (.andReg x y) s = .next t ∧
      (∀ j < 8, (t.reg x).getLsbD j = ((s.reg x).getLsbD j && (s.reg y).getLsbD j)) ∧ t.pc = s.pc + 2 ∧
      ChangesOnly (fun p => p = .v x ∨ p = .pc) s t) ∧
    (∃ t, exec (.xorReg x y) s = .next t ∧
      (∀ j < 8, (t.reg x).getLsbD j = ((s.reg x).getLsbD j ^^ (s.reg y).getLsbD j)) ∧ t.pc = s.pc + 2 ∧
      ChangesOnly (fun p => p = .v x ∨ p = .pc) s t)

/-- R148: `ADD Vx,Vy` adds modulo 256 and sets `VF` to the carry; with `x = 15` the sum is lost and the carry remains.
-/
def Obligations.AddSetsCarry : Prop :=
  ∀ (x y : Reg) (s : State),
    ∃ t, exec (.addReg x y) s = .next t ∧
      (x ≠ 15#4 → (t.reg x).toNat = ((s.reg x).toNat + (s.reg y).toNat) % 256) ∧
      (t.reg 15#4).toNat = (if 255 < (s.reg x).toNat + (s.reg y).toNat then 1 else 0) ∧ t.pc = s.pc + 2 ∧
      ChangesOnly (fun p => p = .v x ∨ p = .v 15#4 ∨ p = .pc) s t

/-- R149 and R151: `SUB` and `SUBN` give the residue modulo 256 of the difference and set `VF` to 1 exactly when there
is no borrow; with `x = 15` the difference is lost and the flag remains. -/
def Obligations.SubtractSetsNotBorrow : Prop :=
  ∀ (x y : Reg) (s : State),
    (∃ t, exec (.sub x y) s = .next t ∧
      (x ≠ 15#4 → ((t.reg x).toNat : Int) = (((s.reg x).toNat : Int) - (s.reg y).toNat) % 256) ∧
      (t.reg 15#4).toNat = (if (s.reg y).toNat ≤ (s.reg x).toNat then 1 else 0) ∧ t.pc = s.pc + 2 ∧
      ChangesOnly (fun p => p = .v x ∨ p = .v 15#4 ∨ p = .pc) s t) ∧
    (∃ t, exec (.subn x y) s = .next t ∧
      (x ≠ 15#4 → ((t.reg x).toNat : Int) = (((s.reg y).toNat : Int) - (s.reg x).toNat) % 256) ∧
      (t.reg 15#4).toNat = (if (s.reg x).toNat ≤ (s.reg y).toNat then 1 else 0) ∧ t.pc = s.pc + 2 ∧
      ChangesOnly (fun p => p = .v x ∨ p = .v 15#4 ∨ p = .pc) s t)

/-- R150 and R152: `SHR` and `SHL` shift `V[y]`, not `V[x]`, by one place and set `VF` to the bit shifted out; with `x
= 15` the shifted value is lost and the flag remains. -/
def Obligations.ShiftsMoveVyAndSetShiftedOutBit : Prop :=
  ∀ (x y : Reg) (s : State),
    (∃ t, exec (.shr x y) s = .next t ∧ (x ≠ 15#4 → (t.reg x).toNat = (s.reg y).toNat / 2) ∧
      (t.reg 15#4).toNat = (s.reg y).toNat % 2 ∧ t.pc = s.pc + 2 ∧
      ChangesOnly (fun p => p = .v x ∨ p = .v 15#4 ∨ p = .pc) s t) ∧
    (∃ t, exec (.shl x y) s = .next t ∧ (x ≠ 15#4 → (t.reg x).toNat = (s.reg y).toNat * 2 % 256) ∧
      (t.reg 15#4).toNat = (s.reg y).toNat / 128 ∧ t.pc = s.pc + 2 ∧
      ChangesOnly (fun p => p = .v x ∨ p = .v 15#4 ∨ p = .pc) s t)

/-- `RAND Vx,NN` (41 R153) writes a draw masked by `NN`, whatever the draw is, so every bit that is 0 in `NN` is 0 in
`V[x]`; the next draw is another one. The draw is the model's free value (log 3). -/
def Obligations.RandomIsMaskedDraw : Prop :=
  ∀ (x : Reg) (nn : Byte) (s : State),
    ∃ t, exec (.rand x nn) s = .next t ∧
      (∀ j < 8, (t.reg x).getLsbD j = ((Config.randByte s.draws).getLsbD j && nn.getLsbD j)) ∧
      t.draws = s.draws + 1 ∧ t.pc = s.pc + 2 ∧
      ChangesOnly (fun p => p = .v x ∨ p = .draws ∨ p = .pc) s t

/-! ### Index register and memory -/

/-- R161 to R163: `LOAD I,nnn` writes the address, `ADD I,Vx` adds modulo 65536 with no flag and no fault, `LOAD_FONT
Vx` gives the place of the glyph that the low four bits of `V[x]` name. -/
def Obligations.IndexRegisterUpdates : Prop :=
  ∀ (x : Reg) (nnn : Addr12) (s : State),
    (∃ t, exec (.loadI nnn) s = .next t ∧ t.i.toNat = nnn.toNat ∧ t.pc = s.pc + 2 ∧
      ChangesOnly (fun p => p = .i ∨ p = .pc) s t) ∧
    (∃ t, exec (.addI x) s = .next t ∧ t.i.toNat = (s.i.toNat + (s.reg x).toNat) % 65536 ∧
      t.pc = s.pc + 2 ∧ ChangesOnly (fun p => p = .i ∨ p = .pc) s t) ∧
    (∃ t, exec (.loadFont x) s = .next t ∧ t.i.toNat = 80 + (s.reg x).toNat % 16 * 5 ∧
      t.pc = s.pc + 2 ∧ ChangesOnly (fun p => p = .i ∨ p = .pc) s t)

/-- R164: `BCD Vx` stores the decimal digits of `V[x]` at `I`, `I+1`, `I+2` and changes no other byte; with `I` at
4094 or above it stores nothing and latches `OutOfRange(max(I, 4096))`. -/
def Obligations.BcdStoresDecimalDigits : Prop :=
  ∀ (x : Reg) (s : State), s.ram.wf →
    (s.i.toNat + 3 ≤ 4096 →
      ∃ t, exec (.bcd x) s = .next t ∧ (t.ram.read s.i.toNat).toNat = (s.reg x).toNat / 100 ∧
        (t.ram.read (s.i.toNat + 1)).toNat = (s.reg x).toNat / 10 % 10 ∧
        (t.ram.read (s.i.toNat + 2)).toNat = (s.reg x).toNat % 10 ∧ t.pc = s.pc + 2 ∧
        ChangesOnly (fun p => (∃ a, p = .ram a ∧ InDataRange s 3 a) ∨ p = .pc) s t) ∧
    (4094 ≤ s.i.toNat →
      exec (.bcd x) s =
        .next { s with fault := some ⟨.outOfRange, BitVec.ofNat 16 (max s.i.toNat 4096)⟩ })

/-- `REGDUMP Vx` (42 R165, R167) stores `V[0]` to `V[x]` at `I` to `I+x` and changes no other byte; `I` moves by `x +
1` modulo 65536 exactly when the parameter says so. The amount is the spec's decision D12 (log 10). A range that
leaves RAM stores nothing and latches `OutOfRange`. -/
def Obligations.RegdumpStoresRegisters : Prop :=
  ∀ (x : Reg) (s : State), s.ram.wf →
    (s.i.toNat + x.toNat + 1 ≤ 4096 →
      ∃ t, exec (.regdump x) s = .next t ∧
        (∀ r : Reg, r.toNat ≤ x.toNat → t.ram.read (s.i.toNat + r.toNat) = s.reg r) ∧
        t.i.toNat = (if s.cfg.indexIncrementOnBulk then (s.i.toNat + x.toNat + 1) % 65536 else s.i.toNat) ∧
        t.pc = s.pc + 2 ∧
        ChangesOnly (fun p => (∃ a, p = .ram a ∧ InDataRange s (x.toNat + 1) a) ∨
          (p = .i ∧ s.cfg.indexIncrementOnBulk = true) ∨ p = .pc) s t) ∧
    (4096 ≤ s.i.toNat + x.toNat →
      exec (.regdump x) s =
        .next { s with fault := some ⟨.outOfRange, BitVec.ofNat 16 (max s.i.toNat 4096)⟩ })

/-- `REGLOAD Vx` (42 R166, R167; D12, log 10) loads `V[0]` to `V[x]` from `I` to `I+x` and changes no other register
and no byte of RAM; `I` as in `REGDUMP`. A range that leaves RAM loads nothing and latches `OutOfRange`. -/
def Obligations.RegloadLoadsRegisters : Prop :=
  ∀ (x : Reg) (s : State),
    (s.i.toNat + x.toNat + 1 ≤ 4096 →
      ∃ t, exec (.regload x) s = .next t ∧
        (∀ r : Reg, r.toNat ≤ x.toNat → t.reg r = s.ram.read (s.i.toNat + r.toNat)) ∧
        t.i.toNat = (if s.cfg.indexIncrementOnBulk then (s.i.toNat + x.toNat + 1) % 65536 else s.i.toNat) ∧
        t.pc = s.pc + 2 ∧
        ChangesOnly (fun p => (∃ r : Reg, p = .v r ∧ r.toNat ≤ x.toNat) ∨
          (p = .i ∧ s.cfg.indexIncrementOnBulk = true) ∨ p = .pc) s t) ∧
    (4096 ≤ s.i.toNat + x.toNat →
      exec (.regload x) s =
        .next { s with fault := some ⟨.outOfRange, BitVec.ofNat 16 (max s.i.toNat 4096)⟩ })

/-- `REGLOAD Vx` gives back what `REGDUMP Vx` stored, whatever has happened to the registers in between, as long as
`I` is where it was (42 R165, R166). -/
def Obligations.RegloadUndoesRegdump : Prop :=
  ∀ (x : Reg) (v : Vector Byte 16) (s : State), s.ram.wf → s.i.toNat + x.toNat + 1 ≤ 4096 →
    ∃ t u, exec (.regdump x) s = .next t ∧
      exec (.regload x) { t with v := v, i := s.i } = .next u ∧
      (∀ r : Reg, r.toNat ≤ x.toNat → u.reg r = s.reg r) ∧
      (∀ r : Reg, x.toNat < r.toNat → u.reg r = v[r.toNat])

/-- Bytes stored by `REGDUMP` where the next instruction stands are the next instruction, the byte at the lower
address in its high half (20_memory R69, R70, R77). -/
def Obligations.StoredInstructionIsFetchedNext : Prop :=
  ∀ (x k : Reg) (s t : State), s.ram.wf → s.i.toNat + x.toNat + 1 ≤ 4096 → k.toNat + 1 ≤ x.toNat →
    s.pc.toNat + 2 = s.i.toNat + k.toNat → exec (.regdump x) s = .next t →
    t.fetch = .ok (wordOfBytes (s.reg k) (s.reg (k + 1)))

/-- The checked primitives (20_memory R64, R65, R66, R73): a byte written in RAM reads back as written and every other
byte reads as before; an access at 4096 or above is an error that names the address. -/
def Obligations.CheckedWriteReadsBack : Prop :=
  ∀ (s : State) (a : Nat) (b : Byte), s.ram.wf →
    (a < 4096 → ∃ t, s.memWriteByte a b = .ok t ∧ t.memReadByte a = .ok b ∧
      (∀ a', a' ≠ a → t.memReadByte a' = s.memReadByte a') ∧ ChangesOnly (fun p => p = .ram a) s t) ∧
    (4096 ≤ a → s.memWriteByte a b = .error ⟨.outOfRange, BitVec.ofNat 16 a⟩ ∧
      s.memReadByte a = .error ⟨.outOfRange, BitVec.ofNat 16 a⟩)

/-! ### Display -/

/-- R181: `CLEAR` turns every pixel off and changes nothing else but `PC`. -/
def Obligations.ClearTurnsEveryPixelOff : Prop :=
  ∀ s : State, ∃ t, exec .clear s = .next t ∧ (∀ i < 2048, fbGet t.fb i = false) ∧ t.pc = s.pc + 2 ∧
    ChangesOnly (fun p => p = .fb ∨ p = .pc) s t

/-- `DRAW Vx,Vy,N` (43 R182 to R184; the bit order is D18, log 7) toggles exactly the pixels that a set bit of the
sprite lands on, each coordinate wrapped on its own, bit 7 leftmost, and sets `VF` to 1 exactly when one of them was
on; a sprite that leaves RAM draws nothing and latches `OutOfRange` (no partial effect is the spec's decision D8, log
13). With `N = 0` nothing is drawn and `VF` becomes 0, wherever `I` points (R185 (a); D20, log 25). -/
def Obligations.DrawTogglesSpritePixels : Prop :=
  ∀ (x y : Reg) (n : BitVec 4) (s : State),
    (n.toNat = 0 ∨ s.i.toNat + n.toNat ≤ 4096 →
      ∃ t, exec (.draw x y n) s = .next t ∧
        (∀ px < 64, ∀ py < 32, t.pixel px py = (s.pixel px py ^^ SpriteCovers s x y n px py)) ∧
        (t.reg 15#4 = 0 ∨ t.reg 15#4 = 1) ∧
        (t.reg 15#4 = 1 ↔
          ∃ px < 64, ∃ py < 32, s.pixel px py = true ∧ SpriteCovers s x y n px py = true) ∧
        t.pc = s.pc + 2 ∧ ChangesOnly (fun p => p = .fb ∨ p = .v 15#4 ∨ p = .pc) s t) ∧
    (n.toNat ≠ 0 → 4096 < s.i.toNat + n.toNat →
      exec (.draw x y n) s =
        .next { s with fault := some ⟨.outOfRange, BitVec.ofNat 16 (max s.i.toNat 4096)⟩ })

/-- A sprite drawn twice at the same place restores the framebuffer (43 R185 (e)), and the second draw reports a
collision exactly when the sprite covers a pixel that was off at the start. R185 (e) says "if the sprite has any set
bit", which is so when the framebuffer is clear under the sprite (log 26). Coordinates in `VF` are shut out, since the
first draw changes them. -/
def Obligations.DrawingTwiceRestoresDisplay : Prop :=
  ∀ (x y : Reg) (n : BitVec 4) (s : State), x ≠ 15#4 → y ≠ 15#4 →
    (n.toNat = 0 ∨ s.i.toNat + n.toNat ≤ 4096) →
    ∃ t u, exec (.draw x y n) s = .next t ∧ exec (.draw x y n) t = .next u ∧ u.fb = s.fb ∧
      (u.reg 15#4 = 1 ↔
        ∃ px < 64, ∃ py < 32, s.pixel px py = false ∧ SpriteCovers s x y n px py = true)

/-! ### Keypad and timers -/

/-- `LOAD Vx,K` (44 R194) only enters the wait: it records the destination and the key sample in the spec's own
elements (D10, D11, log 15), writes no register and does not move `PC`. -/
def Obligations.LoadKeyEntersWait : Prop :=
  ∀ (x : Reg) (s : State),
    ∃ t, exec (.loadKey x) s = .next t ∧ t.wait = true ∧ t.wreg = x ∧ t.kprev = s.key ∧
      ChangesOnly (fun p => p = .wait ∨ p = .wreg ∨ p = .kprev) s t

/-- R196 to R198: the three timer transfers; `LOAD ST,Vx` emits no tone pulse and leaves `TONE` alone. -/
def Obligations.TimerTransfers : Prop :=
  ∀ (x : Reg) (s : State),
    (∃ t, exec (.loadFromDt x) s = .next t ∧ t.reg x = s.dt ∧ t.pc = s.pc + 2 ∧
      ChangesOnly (fun p => p = .v x ∨ p = .pc) s t) ∧
    (∃ t, exec (.loadDt x) s = .next t ∧ t.dt = s.reg x ∧ t.pc = s.pc + 2 ∧
      ChangesOnly (fun p => p = .dt ∨ p = .pc) s t) ∧
    (∃ t, exec (.loadSt x) s = .next t ∧ t.st = s.reg x ∧ t.pc = s.pc + 2 ∧
      ChangesOnly (fun p => p = .st ∨ p = .pc) s t)
end

