-- ==== Sys2Proof/Laws/Decode.lean ====
section
/-!
SUPPORT. Words as numbers: what a field of a word is, what word an encoding format makes, and the fields of that word.
-/

namespace Sys2Proof

theorem append_toNat {n m : Nat} (a : BitVec n) (b : BitVec m) :
    (a ++ b).toNat = a.toNat * 2 ^ m + b.toNat := by
  rw [BitVec.toNat_append, Nat.shiftLeft_eq, Nat.mul_comm, ← Nat.two_pow_add_eq_or_of_lt b.isLt]

/-- The byte at the lower address is the high half (20_memory R69). -/
theorem wordOfBytes_toNat (hi lo : Byte) : (wordOfBytes hi lo).toNat = hi.toNat * 256 + lo.toNat :=
  append_toNat hi lo

@[simp] theorem highByte_toNat (w : Word) : (highByte w).toNat = w.toNat / 256 := by
  have := w.isLt
  simp [highByte, Nat.shiftRight_eq_div_pow]
  omega

@[simp] theorem lowByte_toNat (w : Word) : (lowByte w).toNat = w.toNat % 256 := by
  simp [lowByte]

/-- The two bytes of a word put together again. -/
@[simp] theorem wordOfBytes_high_low (w : Word) : wordOfBytes (highByte w) (lowByte w) = w := by
  apply BitVec.eq_of_toNat_eq
  rw [wordOfBytes_toNat, highByte_toNat, lowByte_toNat]
  omega

/-! ### Fields of a word -/

theorem fieldsOf_op_toNat (w : Word) : (fieldsOf w).op.toNat = w.toNat / 4096 := by
  have := w.isLt
  simp [fieldsOf, Nat.shiftRight_eq_div_pow]
  omega

theorem fieldsOf_x_toNat (w : Word) : (fieldsOf w).x.toNat = w.toNat / 256 % 16 := by
  simp [fieldsOf, Nat.shiftRight_eq_div_pow]

theorem fieldsOf_y_toNat (w : Word) : (fieldsOf w).y.toNat = w.toNat / 16 % 16 := by
  simp [fieldsOf, Nat.shiftRight_eq_div_pow]

theorem fieldsOf_n_toNat (w : Word) : (fieldsOf w).n.toNat = w.toNat % 16 := by
  simp [fieldsOf]

theorem fieldsOf_nn_toNat (w : Word) : (fieldsOf w).nn.toNat = w.toNat % 256 := by
  simp [fieldsOf]

theorem fieldsOf_nnn_toNat (w : Word) : (fieldsOf w).nnn.toNat = w.toNat % 4096 := by
  simp [fieldsOf]

/-! ### Words of an encoding format -/

theorem encodeX_toNat (op : BitVec 4) (x : Reg) (nn : Byte) :
    (encodeX op x nn).toNat = op.toNat * 4096 + x.toNat * 256 + nn.toNat := by
  have h : (encodeX op x nn).toNat = (op ++ x ++ nn : BitVec (4 + 4 + 8)).toNat := rfl
  rw [h, append_toNat, append_toNat]
  omega

theorem encodeXY_toNat (op : BitVec 4) (x y : Reg) (n : BitVec 4) :
    (encodeXY op x y n).toNat = op.toNat * 4096 + x.toNat * 256 + y.toNat * 16 + n.toNat := by
  have h : (encodeXY op x y n).toNat = (op ++ x ++ y ++ n : BitVec (4 + 4 + 4 + 4)).toNat := rfl
  rw [h, append_toNat, append_toNat, append_toNat]
  omega

theorem encodeNNN_toNat (op : BitVec 4) (nnn : Addr12) :
    (encodeNNN op nnn).toNat = op.toNat * 4096 + nnn.toNat :=
  append_toNat op nnn

theorem encodeX_fields (op : BitVec 4) (x : Reg) (nn : Byte) :
    (fieldsOf (encodeX op x nn)).op = op ∧ (fieldsOf (encodeX op x nn)).x = x ∧
      (fieldsOf (encodeX op x nn)).nn = nn := by
  have := x.isLt
  have := nn.isLt
  have := op.isLt
  refine ⟨?_, ?_, ?_⟩ <;> apply BitVec.eq_of_toNat_eq
  · rw [fieldsOf_op_toNat, encodeX_toNat]; omega
  · rw [fieldsOf_x_toNat, encodeX_toNat]; omega
  · rw [fieldsOf_nn_toNat, encodeX_toNat]; omega

theorem encodeXY_fields (op : BitVec 4) (x y : Reg) (n : BitVec 4) :
    (fieldsOf (encodeXY op x y n)).op = op ∧ (fieldsOf (encodeXY op x y n)).x = x ∧
      (fieldsOf (encodeXY op x y n)).y = y ∧ (fieldsOf (encodeXY op x y n)).n = n := by
  have := x.isLt
  have := y.isLt
  have := n.isLt
  have := op.isLt
  refine ⟨?_, ?_, ?_, ?_⟩ <;> apply BitVec.eq_of_toNat_eq
  · rw [fieldsOf_op_toNat, encodeXY_toNat]; omega
  · rw [fieldsOf_x_toNat, encodeXY_toNat]; omega
  · rw [fieldsOf_y_toNat, encodeXY_toNat]; omega
  · rw [fieldsOf_n_toNat, encodeXY_toNat]; omega

theorem encodeNNN_fields (op : BitVec 4) (nnn : Addr12) :
    (fieldsOf (encodeNNN op nnn)).op = op ∧ (fieldsOf (encodeNNN op nnn)).nnn = nnn := by
  have := nnn.isLt
  have := op.isLt
  refine ⟨?_, ?_⟩ <;> apply BitVec.eq_of_toNat_eq
  · rw [fieldsOf_op_toNat, encodeNNN_toNat]; omega
  · rw [fieldsOf_nnn_toNat, encodeNNN_toNat]; omega

/-! ### Bits of an encoding format -/

theorem append_getLsbD {n m : Nat} (a : BitVec n) (b : BitVec m) (i : Nat) :
    (a ++ b).getLsbD i = if i < m then b.getLsbD i else a.getLsbD (i - m) := by
  rw [BitVec.getLsbD_append]

theorem encodeX_getLsbD (op : BitVec 4) (x : Reg) (nn : Byte) (i : Nat) :
    (encodeX op x nn).getLsbD i =
      if i < 8 then nn.getLsbD i else if i - 8 < 4 then x.getLsbD (i - 8) else op.getLsbD (i - 8 - 4) := by
  have h : (encodeX op x nn).getLsbD i = (op ++ x ++ nn : BitVec (4 + 4 + 8)).getLsbD i := rfl
  rw [h, append_getLsbD, append_getLsbD]

theorem encodeXY_getLsbD (op : BitVec 4) (x y : Reg) (n : BitVec 4) (i : Nat) :
    (encodeXY op x y n).getLsbD i =
      if i < 4 then n.getLsbD i else if i - 4 < 4 then y.getLsbD (i - 4)
      else if i - 4 - 4 < 4 then x.getLsbD (i - 4 - 4) else op.getLsbD (i - 4 - 4 - 4) := by
  have h : (encodeXY op x y n).getLsbD i = (op ++ x ++ y ++ n : BitVec (4 + 4 + 4 + 4)).getLsbD i := rfl
  rw [h, append_getLsbD, append_getLsbD, append_getLsbD]

theorem encodeNNN_getLsbD (op : BitVec 4) (nnn : Addr12) (i : Nat) :
    (encodeNNN op nnn).getLsbD i = if i < 12 then nnn.getLsbD i else op.getLsbD (i - 12) := by
  have h : (encodeNNN op nnn).getLsbD i = (op ++ nnn : BitVec (4 + 12)).getLsbD i := rfl
  rw [h, append_getLsbD]

end Sys2Proof
end

