-- ==== Sys2Proof/Laws/Memory.lean ====
section
/-!
SUPPORT. The laws of RAM: a read after a write, the canonical form, and that equal contents are equal data.
-/

namespace Sys2Proof.Machine.Memory

@[simp] theorem read_put (m : Memory) (a b : Nat) (v : Byte) (h : m.read a = initial a) :
    read (put a v m) b = if a = b then v else m.read b := by
  unfold put
  split
  · subst v
    split
    · subst b; exact h
    · rfl
  · simp [read]

theorem read_of_lt (m : Memory) (a : Nat) (h : ∀ c ∈ m, a < c.1) : m.read a = initial a := by
  induction m with
  | nil => rfl
  | cons c m ih =>
    have hc := h c (by simp)
    simp only [read]
    rw [if_neg (by omega)]
    exact ih fun d hd => h d (by simp [hd])

/-- A read after a write gives the byte written, and every other byte as before (20_memory R73). -/
theorem read_write (m : Memory) (hw : m.wf) (a b : Nat) (v : Byte) :
    read (write m a v) b = if a = b then v else m.read b := by
  induction m with
  | nil => exact read_put [] a b v rfl
  | cons c m ih =>
    obtain ⟨k, w⟩ := c
    have hs := hw.1
    rw [List.pairwise_cons] at hs
    have hm : Memory.wf m := ⟨hs.2, fun d hd => hw.2 d (by simp [hd])⟩
    simp only [write]
    split
    · rename_i hak
      rw [read_put]
      refine read_of_lt _ _ fun d hd => ?_
      rcases List.mem_cons.1 hd with rfl | hd
      · exact hak
      · exact Nat.lt_trans hak (hs.1 d hd)
    · split
      · subst k
        rw [read_put _ _ _ _ (read_of_lt _ _ fun d hd => hs.1 d hd)]
        simp only [read]
        split <;> rfl
      · simp only [read, ih hm]
        split
        · subst k
          rw [if_neg (by omega)]
        · rfl

theorem mem_put {a : Nat} {v : Byte} {m : Memory} {c : Host.Cell} (h : c ∈ put a v m) :
    (c = (a, v) ∧ v ≠ initial a) ∨ c ∈ m := by
  unfold put at h
  split at h
  · exact .inr h
  · rcases List.mem_cons.1 h with rfl | h
    · exact .inl ⟨rfl, by assumption⟩
    · exact .inr h

theorem put_wf {a : Nat} {v : Byte} {m : Memory} (hm : m.wf) (ha : a < Config.ramSize)
    (h : ∀ c ∈ m, a < c.1) : (put a v m).wf := by
  unfold put
  split
  · exact hm
  · rename_i hv
    refine ⟨List.pairwise_cons.2 ⟨h, hm.1⟩, fun c hc => ?_⟩
    rcases List.mem_cons.1 hc with rfl | hc
    · exact ⟨ha, hv⟩
    · exact hm.2 c hc

/-- The listed addresses after a write. -/
theorem mem_write {m : Memory} {a : Nat} {v : Byte} {c : Host.Cell} (h : c ∈ write m a v) :
    (c = (a, v) ∧ v ≠ initial a) ∨ c ∈ m := by
  induction m with
  | nil => exact mem_put h
  | cons d m ih =>
    obtain ⟨k, w⟩ := d
    simp only [write] at h
    split at h
    · exact mem_put h
    · split at h
      · rcases mem_put h with h | h
        · exact .inl h
        · exact .inr (by simp [h])
      · rcases List.mem_cons.1 h with rfl | h
        · exact .inr (by simp)
        · rcases ih h with h | h
          · exact .inl h
          · exact .inr (by simp [h])

/-- A write inside RAM keeps the canonical form. -/
theorem write_wf {m : Memory} (hw : m.wf) {a : Nat} (ha : a < Config.ramSize) (v : Byte) :
    (write m a v).wf := by
  induction m with
  | nil => exact put_wf hw ha (by simp)
  | cons c m ih =>
    obtain ⟨k, w⟩ := c
    have hs := hw.1
    rw [List.pairwise_cons] at hs
    have hm : Memory.wf m := ⟨hs.2, fun d hd => hw.2 d (by simp [hd])⟩
    simp only [write]
    split
    · rename_i hak
      refine put_wf hw ha fun d hd => ?_
      rcases List.mem_cons.1 hd with rfl | hd
      · exact hak
      · exact Nat.lt_trans hak (hs.1 d hd)
    · split
      · subst k
        exact put_wf hm ha hs.1
      · rename_i h1 h2
        have h3 : k < a := by omega
        refine ⟨List.pairwise_cons.2 ⟨fun d hd => ?_, (ih hm).1⟩, fun d hd => ?_⟩
        · rcases mem_write hd with ⟨rfl, -⟩ | hd
          · exact h3
          · exact hs.1 d hd
        · rcases List.mem_cons.1 hd with rfl | hd
          · exact hw.2 _ (by simp)
          · exact (ih hm).2 d hd

/-- The bytes stored by `writeBytes` keep the canonical form when all of them lie in RAM. -/
theorem writeBytes_wf {m : Memory} (hw : m.wf) (a : Nat) (bs : List Byte)
    (h : a + bs.length ≤ Config.ramSize ∨ bs = []) : (m.writeBytes a bs).wf := by
  induction bs generalizing m a with
  | nil => exact hw
  | cons b bs ih =>
    have h : a + (bs.length + 1) ≤ Config.ramSize := by simpa using h
    exact ih (write_wf hw (by omega) b) (a + 1) (.inl (by omega))

/-- Reading after `writeBytes`: the stored byte inside the range, as before outside it. -/
theorem read_writeBytes {m : Memory} (hw : m.wf) (a : Nat) (bs : List Byte)
    (h : a + bs.length ≤ Config.ramSize ∨ bs = []) (b : Nat) :
    (m.writeBytes a bs).read b = if a ≤ b then (bs[b - a]?).getD (m.read b) else m.read b := by
  induction bs generalizing m a with
  | nil => simp [writeBytes]
  | cons v bs ih =>
    have h : a + (bs.length + 1) ≤ Config.ramSize := by simpa using h
    simp only [writeBytes]
    rw [ih (write_wf hw (by omega) v) (a + 1) (.inl (by omega)), read_write m hw]
    by_cases h1 : a + 1 ≤ b
    · rw [if_pos h1, if_neg (show ¬ a = b by omega), if_pos (show a ≤ b by omega)]
      obtain ⟨d, rfl⟩ : ∃ d, b = a + 1 + d := ⟨b - (a + 1), by omega⟩
      rw [show a + 1 + d - (a + 1) = d by omega, show a + 1 + d - a = d + 1 by omega,
        List.getElem?_cons_succ]
    · rw [if_neg h1]
      by_cases h2 : a = b
      · subst h2; simp
      · rw [if_neg h2, if_neg (by omega)]

@[simp] theorem readBytes_length (m : Memory) (a n : Nat) : (m.readBytes a n).length = n := by
  simp [readBytes]

@[simp] theorem readBytes_get? (m : Memory) (a n k : Nat) :
    (m.readBytes a n)[k]? = if k < n then some (m.read (a + k)) else none := by
  simp only [readBytes, List.getElem?_map]
  split
  · rw [List.getElem?_range (by assumption)]; rfl
  · rw [List.getElem?_eq_none (by simpa using by omega)]; rfl

/-- The reset contents are in canonical form. -/
theorem nil_wf : Memory.wf [] := ⟨List.Pairwise.nil, by simp⟩

/-- A listed address does not read as its initial byte, so equal contents are equal data. -/
theorem eq_of_read {m n : Memory} (hm : m.wf) (hn : n.wf) (h : ∀ a, m.read a = n.read a) : m = n := by
  have first : ∀ (k : Nat) (v : Byte) (m n : Memory), Memory.wf ((k, v) :: m) → n.wf →
      (∀ a, read ((k, v) :: m) a = n.read a) → ∃ c ∈ n, c.1 ≤ k := by
    intro k v m n hm _ h
    by_contra hc
    have hlt : ∀ c ∈ n, k < c.1 := by
      intro c hcn
      by_contra hk
      exact hc ⟨c, hcn, by omega⟩
    have := h k
    rw [read_of_lt n k hlt] at this
    exact (hm.2 (k, v) (by simp)).2 (by simpa [read] using this)
  induction m generalizing n with
  | nil =>
    cases n with
    | nil => rfl
    | cons c n =>
      obtain ⟨d, hd, -⟩ := first c.1 c.2 n [] hn hm fun a => (h a).symm
      simp at hd
  | cons c m ih =>
    obtain ⟨k, v⟩ := c
    cases n with
    | nil =>
      obtain ⟨d, hd, -⟩ := first k v m [] hm hn h
      simp at hd
    | cons d n =>
      obtain ⟨l, w⟩ := d
      have hs := List.pairwise_cons.1 hm.1
      have ht := List.pairwise_cons.1 hn.1
      have hkl : k = l := by
        obtain ⟨c, hc, hck⟩ := first k v m _ hm hn h
        obtain ⟨d, hd, hdl⟩ := first l w n _ hn hm fun a => (h a).symm
        rcases List.mem_cons.1 hc with rfl | hc <;> rcases List.mem_cons.1 hd with rfl | hd
        · exact Nat.le_antisymm hdl hck
        · have := hs.1 d hd; simp at hck; omega
        · have := ht.1 c hc; simp at hdl; omega
        · have := hs.1 d hd
          have := ht.1 c hc
          simp at *
          omega
      subst hkl
      have hv : v = w := by simpa [read] using h k
      subst hv
      congr 1
      refine ih ⟨hs.2, fun d hd => hm.2 d (by simp [hd])⟩ ⟨ht.2, fun d hd => hn.2 d (by simp [hd])⟩ fun a => ?_
      by_cases hka : k = a
      · subst hka
        rw [read_of_lt m k fun d hd => hs.1 d hd, read_of_lt n k fun d hd => ht.1 d hd]
      · simpa [read, hka] using h a

end Sys2Proof.Machine.Memory
end

