-- ==== Sys2Proof/Laws/State.lean ====
section
/-!
SUPPORT. What each update of the state leaves in each field, so that no proof unfolds a record update.
-/

namespace Sys2Proof.Machine.State

/-! ### setReg -/

@[simp] theorem setReg_v (s : State) (x : Reg) (b : Byte) : (s.setReg x b).v = s.v.set x.toNat b x.isLt := rfl
@[simp] theorem setReg_i (s : State) (x : Reg) (b : Byte) : (s.setReg x b).i = s.i := rfl
@[simp] theorem setReg_pc (s : State) (x : Reg) (b : Byte) : (s.setReg x b).pc = s.pc := rfl
@[simp] theorem setReg_stack (s : State) (x : Reg) (b : Byte) : (s.setReg x b).stack = s.stack := rfl
@[simp] theorem setReg_dt (s : State) (x : Reg) (b : Byte) : (s.setReg x b).dt = s.dt := rfl
@[simp] theorem setReg_st (s : State) (x : Reg) (b : Byte) : (s.setReg x b).st = s.st := rfl
@[simp] theorem setReg_ram (s : State) (x : Reg) (b : Byte) : (s.setReg x b).ram = s.ram := rfl
@[simp] theorem setReg_fb (s : State) (x : Reg) (b : Byte) : (s.setReg x b).fb = s.fb := rfl
@[simp] theorem setReg_key (s : State) (x : Reg) (b : Byte) : (s.setReg x b).key = s.key := rfl
@[simp] theorem setReg_wait (s : State) (x : Reg) (b : Byte) : (s.setReg x b).wait = s.wait := rfl
@[simp] theorem setReg_wreg (s : State) (x : Reg) (b : Byte) : (s.setReg x b).wreg = s.wreg := rfl
@[simp] theorem setReg_kprev (s : State) (x : Reg) (b : Byte) : (s.setReg x b).kprev = s.kprev := rfl
@[simp] theorem setReg_tone (s : State) (x : Reg) (b : Byte) : (s.setReg x b).tone = s.tone := rfl
@[simp] theorem setReg_fault (s : State) (x : Reg) (b : Byte) : (s.setReg x b).fault = s.fault := rfl
@[simp] theorem setReg_cfg (s : State) (x : Reg) (b : Byte) : (s.setReg x b).cfg = s.cfg := rfl
@[simp] theorem setReg_draws (s : State) (x : Reg) (b : Byte) : (s.setReg x b).draws = s.draws := rfl
@[simp] theorem setReg_tones (s : State) (x : Reg) (b : Byte) : (s.setReg x b).tones = s.tones := rfl
@[simp] theorem setReg_pending (s : State) (x : Reg) (b : Byte) : (s.setReg x b).pending = s.pending := rfl
@[simp] theorem setReg_sp (s : State) (x : Reg) (b : Byte) : (s.setReg x b).sp = s.sp := rfl
@[simp] theorem setReg_base (s : State) (x : Reg) (b : Byte) : (s.setReg x b).base = s.base := rfl

/-! ### setRegs -/

@[simp] theorem setRegs_v (s : State) (v : Vector Byte 16) : (s.setRegs v).v = v := rfl
@[simp] theorem setRegs_i (s : State) (v : Vector Byte 16) : (s.setRegs v).i = s.i := rfl
@[simp] theorem setRegs_pc (s : State) (v : Vector Byte 16) : (s.setRegs v).pc = s.pc := rfl
@[simp] theorem setRegs_stack (s : State) (v : Vector Byte 16) : (s.setRegs v).stack = s.stack := rfl
@[simp] theorem setRegs_dt (s : State) (v : Vector Byte 16) : (s.setRegs v).dt = s.dt := rfl
@[simp] theorem setRegs_st (s : State) (v : Vector Byte 16) : (s.setRegs v).st = s.st := rfl
@[simp] theorem setRegs_ram (s : State) (v : Vector Byte 16) : (s.setRegs v).ram = s.ram := rfl
@[simp] theorem setRegs_fb (s : State) (v : Vector Byte 16) : (s.setRegs v).fb = s.fb := rfl
@[simp] theorem setRegs_key (s : State) (v : Vector Byte 16) : (s.setRegs v).key = s.key := rfl
@[simp] theorem setRegs_wait (s : State) (v : Vector Byte 16) : (s.setRegs v).wait = s.wait := rfl
@[simp] theorem setRegs_wreg (s : State) (v : Vector Byte 16) : (s.setRegs v).wreg = s.wreg := rfl
@[simp] theorem setRegs_kprev (s : State) (v : Vector Byte 16) : (s.setRegs v).kprev = s.kprev := rfl
@[simp] theorem setRegs_tone (s : State) (v : Vector Byte 16) : (s.setRegs v).tone = s.tone := rfl
@[simp] theorem setRegs_fault (s : State) (v : Vector Byte 16) : (s.setRegs v).fault = s.fault := rfl
@[simp] theorem setRegs_cfg (s : State) (v : Vector Byte 16) : (s.setRegs v).cfg = s.cfg := rfl
@[simp] theorem setRegs_draws (s : State) (v : Vector Byte 16) : (s.setRegs v).draws = s.draws := rfl
@[simp] theorem setRegs_tones (s : State) (v : Vector Byte 16) : (s.setRegs v).tones = s.tones := rfl
@[simp] theorem setRegs_pending (s : State) (v : Vector Byte 16) : (s.setRegs v).pending = s.pending := rfl
@[simp] theorem setRegs_sp (s : State) (v : Vector Byte 16) : (s.setRegs v).sp = s.sp := rfl
@[simp] theorem setRegs_base (s : State) (v : Vector Byte 16) : (s.setRegs v).base = s.base := rfl

/-! ### setI -/

@[simp] theorem setI_v (s : State) (a : Word) : (s.setI a).v = s.v := rfl
@[simp] theorem setI_i (s : State) (a : Word) : (s.setI a).i = a := rfl
@[simp] theorem setI_pc (s : State) (a : Word) : (s.setI a).pc = s.pc := rfl
@[simp] theorem setI_stack (s : State) (a : Word) : (s.setI a).stack = s.stack := rfl
@[simp] theorem setI_dt (s : State) (a : Word) : (s.setI a).dt = s.dt := rfl
@[simp] theorem setI_st (s : State) (a : Word) : (s.setI a).st = s.st := rfl
@[simp] theorem setI_ram (s : State) (a : Word) : (s.setI a).ram = s.ram := rfl
@[simp] theorem setI_fb (s : State) (a : Word) : (s.setI a).fb = s.fb := rfl
@[simp] theorem setI_key (s : State) (a : Word) : (s.setI a).key = s.key := rfl
@[simp] theorem setI_wait (s : State) (a : Word) : (s.setI a).wait = s.wait := rfl
@[simp] theorem setI_wreg (s : State) (a : Word) : (s.setI a).wreg = s.wreg := rfl
@[simp] theorem setI_kprev (s : State) (a : Word) : (s.setI a).kprev = s.kprev := rfl
@[simp] theorem setI_tone (s : State) (a : Word) : (s.setI a).tone = s.tone := rfl
@[simp] theorem setI_fault (s : State) (a : Word) : (s.setI a).fault = s.fault := rfl
@[simp] theorem setI_cfg (s : State) (a : Word) : (s.setI a).cfg = s.cfg := rfl
@[simp] theorem setI_draws (s : State) (a : Word) : (s.setI a).draws = s.draws := rfl
@[simp] theorem setI_tones (s : State) (a : Word) : (s.setI a).tones = s.tones := rfl
@[simp] theorem setI_pending (s : State) (a : Word) : (s.setI a).pending = s.pending := rfl
@[simp] theorem setI_reg (s : State) (a : Word) (r : Reg) : (s.setI a).reg r = s.reg r := rfl
@[simp] theorem setI_sp (s : State) (a : Word) : (s.setI a).sp = s.sp := rfl

/-! ### setPc -/

@[simp] theorem setPc_v (s : State) (a : Word) : (s.setPc a).v = s.v := rfl
@[simp] theorem setPc_i (s : State) (a : Word) : (s.setPc a).i = s.i := rfl
@[simp] theorem setPc_pc (s : State) (a : Word) : (s.setPc a).pc = a := rfl
@[simp] theorem setPc_stack (s : State) (a : Word) : (s.setPc a).stack = s.stack := rfl
@[simp] theorem setPc_dt (s : State) (a : Word) : (s.setPc a).dt = s.dt := rfl
@[simp] theorem setPc_st (s : State) (a : Word) : (s.setPc a).st = s.st := rfl
@[simp] theorem setPc_ram (s : State) (a : Word) : (s.setPc a).ram = s.ram := rfl
@[simp] theorem setPc_fb (s : State) (a : Word) : (s.setPc a).fb = s.fb := rfl
@[simp] theorem setPc_key (s : State) (a : Word) : (s.setPc a).key = s.key := rfl
@[simp] theorem setPc_wait (s : State) (a : Word) : (s.setPc a).wait = s.wait := rfl
@[simp] theorem setPc_wreg (s : State) (a : Word) : (s.setPc a).wreg = s.wreg := rfl
@[simp] theorem setPc_kprev (s : State) (a : Word) : (s.setPc a).kprev = s.kprev := rfl
@[simp] theorem setPc_tone (s : State) (a : Word) : (s.setPc a).tone = s.tone := rfl
@[simp] theorem setPc_fault (s : State) (a : Word) : (s.setPc a).fault = s.fault := rfl
@[simp] theorem setPc_cfg (s : State) (a : Word) : (s.setPc a).cfg = s.cfg := rfl
@[simp] theorem setPc_draws (s : State) (a : Word) : (s.setPc a).draws = s.draws := rfl
@[simp] theorem setPc_tones (s : State) (a : Word) : (s.setPc a).tones = s.tones := rfl
@[simp] theorem setPc_pending (s : State) (a : Word) : (s.setPc a).pending = s.pending := rfl
@[simp] theorem setPc_reg (s : State) (a : Word) (r : Reg) : (s.setPc a).reg r = s.reg r := rfl
@[simp] theorem setPc_sp (s : State) (a : Word) : (s.setPc a).sp = s.sp := rfl
@[simp] theorem setPc_base (s : State) (a : Word) : (s.setPc a).base = s.base := rfl

/-! ### setStack -/

@[simp] theorem setStack_v (s : State) (l : List Word) : (s.setStack l).v = s.v := rfl
@[simp] theorem setStack_i (s : State) (l : List Word) : (s.setStack l).i = s.i := rfl
@[simp] theorem setStack_pc (s : State) (l : List Word) : (s.setStack l).pc = s.pc := rfl
@[simp] theorem setStack_stack (s : State) (l : List Word) : (s.setStack l).stack = l := rfl
@[simp] theorem setStack_dt (s : State) (l : List Word) : (s.setStack l).dt = s.dt := rfl
@[simp] theorem setStack_st (s : State) (l : List Word) : (s.setStack l).st = s.st := rfl
@[simp] theorem setStack_ram (s : State) (l : List Word) : (s.setStack l).ram = s.ram := rfl
@[simp] theorem setStack_fb (s : State) (l : List Word) : (s.setStack l).fb = s.fb := rfl
@[simp] theorem setStack_key (s : State) (l : List Word) : (s.setStack l).key = s.key := rfl
@[simp] theorem setStack_wait (s : State) (l : List Word) : (s.setStack l).wait = s.wait := rfl
@[simp] theorem setStack_wreg (s : State) (l : List Word) : (s.setStack l).wreg = s.wreg := rfl
@[simp] theorem setStack_kprev (s : State) (l : List Word) : (s.setStack l).kprev = s.kprev := rfl
@[simp] theorem setStack_tone (s : State) (l : List Word) : (s.setStack l).tone = s.tone := rfl
@[simp] theorem setStack_fault (s : State) (l : List Word) : (s.setStack l).fault = s.fault := rfl
@[simp] theorem setStack_cfg (s : State) (l : List Word) : (s.setStack l).cfg = s.cfg := rfl
@[simp] theorem setStack_draws (s : State) (l : List Word) : (s.setStack l).draws = s.draws := rfl
@[simp] theorem setStack_tones (s : State) (l : List Word) : (s.setStack l).tones = s.tones := rfl
@[simp] theorem setStack_pending (s : State) (l : List Word) : (s.setStack l).pending = s.pending := rfl
@[simp] theorem setStack_reg (s : State) (l : List Word) (r : Reg) : (s.setStack l).reg r = s.reg r := rfl
@[simp] theorem setStack_base (s : State) (l : List Word) : (s.setStack l).base = s.base := rfl

/-! ### setDt -/

@[simp] theorem setDt_v (s : State) (b : Byte) : (s.setDt b).v = s.v := rfl
@[simp] theorem setDt_i (s : State) (b : Byte) : (s.setDt b).i = s.i := rfl
@[simp] theorem setDt_pc (s : State) (b : Byte) : (s.setDt b).pc = s.pc := rfl
@[simp] theorem setDt_stack (s : State) (b : Byte) : (s.setDt b).stack = s.stack := rfl
@[simp] theorem setDt_dt (s : State) (b : Byte) : (s.setDt b).dt = b := rfl
@[simp] theorem setDt_st (s : State) (b : Byte) : (s.setDt b).st = s.st := rfl
@[simp] theorem setDt_ram (s : State) (b : Byte) : (s.setDt b).ram = s.ram := rfl
@[simp] theorem setDt_fb (s : State) (b : Byte) : (s.setDt b).fb = s.fb := rfl
@[simp] theorem setDt_key (s : State) (b : Byte) : (s.setDt b).key = s.key := rfl
@[simp] theorem setDt_wait (s : State) (b : Byte) : (s.setDt b).wait = s.wait := rfl
@[simp] theorem setDt_wreg (s : State) (b : Byte) : (s.setDt b).wreg = s.wreg := rfl
@[simp] theorem setDt_kprev (s : State) (b : Byte) : (s.setDt b).kprev = s.kprev := rfl
@[simp] theorem setDt_tone (s : State) (b : Byte) : (s.setDt b).tone = s.tone := rfl
@[simp] theorem setDt_fault (s : State) (b : Byte) : (s.setDt b).fault = s.fault := rfl
@[simp] theorem setDt_cfg (s : State) (b : Byte) : (s.setDt b).cfg = s.cfg := rfl
@[simp] theorem setDt_draws (s : State) (b : Byte) : (s.setDt b).draws = s.draws := rfl
@[simp] theorem setDt_tones (s : State) (b : Byte) : (s.setDt b).tones = s.tones := rfl
@[simp] theorem setDt_pending (s : State) (b : Byte) : (s.setDt b).pending = s.pending := rfl
@[simp] theorem setDt_reg (s : State) (b : Byte) (r : Reg) : (s.setDt b).reg r = s.reg r := rfl
@[simp] theorem setDt_sp (s : State) (b : Byte) : (s.setDt b).sp = s.sp := rfl
@[simp] theorem setDt_base (s : State) (b : Byte) : (s.setDt b).base = s.base := rfl

/-! ### setSt -/

@[simp] theorem setSt_v (s : State) (b : Byte) : (s.setSt b).v = s.v := rfl
@[simp] theorem setSt_i (s : State) (b : Byte) : (s.setSt b).i = s.i := rfl
@[simp] theorem setSt_pc (s : State) (b : Byte) : (s.setSt b).pc = s.pc := rfl
@[simp] theorem setSt_stack (s : State) (b : Byte) : (s.setSt b).stack = s.stack := rfl
@[simp] theorem setSt_dt (s : State) (b : Byte) : (s.setSt b).dt = s.dt := rfl
@[simp] theorem setSt_st (s : State) (b : Byte) : (s.setSt b).st = b := rfl
@[simp] theorem setSt_ram (s : State) (b : Byte) : (s.setSt b).ram = s.ram := rfl
@[simp] theorem setSt_fb (s : State) (b : Byte) : (s.setSt b).fb = s.fb := rfl
@[simp] theorem setSt_key (s : State) (b : Byte) : (s.setSt b).key = s.key := rfl
@[simp] theorem setSt_wait (s : State) (b : Byte) : (s.setSt b).wait = s.wait := rfl
@[simp] theorem setSt_wreg (s : State) (b : Byte) : (s.setSt b).wreg = s.wreg := rfl
@[simp] theorem setSt_kprev (s : State) (b : Byte) : (s.setSt b).kprev = s.kprev := rfl
@[simp] theorem setSt_tone (s : State) (b : Byte) : (s.setSt b).tone = s.tone := rfl
@[simp] theorem setSt_fault (s : State) (b : Byte) : (s.setSt b).fault = s.fault := rfl
@[simp] theorem setSt_cfg (s : State) (b : Byte) : (s.setSt b).cfg = s.cfg := rfl
@[simp] theorem setSt_draws (s : State) (b : Byte) : (s.setSt b).draws = s.draws := rfl
@[simp] theorem setSt_tones (s : State) (b : Byte) : (s.setSt b).tones = s.tones := rfl
@[simp] theorem setSt_pending (s : State) (b : Byte) : (s.setSt b).pending = s.pending := rfl
@[simp] theorem setSt_reg (s : State) (b : Byte) (r : Reg) : (s.setSt b).reg r = s.reg r := rfl
@[simp] theorem setSt_sp (s : State) (b : Byte) : (s.setSt b).sp = s.sp := rfl
@[simp] theorem setSt_base (s : State) (b : Byte) : (s.setSt b).base = s.base := rfl

/-! ### setRam -/

@[simp] theorem setRam_v (s : State) (m : Memory) : (s.setRam m).v = s.v := rfl
@[simp] theorem setRam_i (s : State) (m : Memory) : (s.setRam m).i = s.i := rfl
@[simp] theorem setRam_pc (s : State) (m : Memory) : (s.setRam m).pc = s.pc := rfl
@[simp] theorem setRam_stack (s : State) (m : Memory) : (s.setRam m).stack = s.stack := rfl
@[simp] theorem setRam_dt (s : State) (m : Memory) : (s.setRam m).dt = s.dt := rfl
@[simp] theorem setRam_st (s : State) (m : Memory) : (s.setRam m).st = s.st := rfl
@[simp] theorem setRam_ram (s : State) (m : Memory) : (s.setRam m).ram = m := rfl
@[simp] theorem setRam_fb (s : State) (m : Memory) : (s.setRam m).fb = s.fb := rfl
@[simp] theorem setRam_key (s : State) (m : Memory) : (s.setRam m).key = s.key := rfl
@[simp] theorem setRam_wait (s : State) (m : Memory) : (s.setRam m).wait = s.wait := rfl
@[simp] theorem setRam_wreg (s : State) (m : Memory) : (s.setRam m).wreg = s.wreg := rfl
@[simp] theorem setRam_kprev (s : State) (m : Memory) : (s.setRam m).kprev = s.kprev := rfl
@[simp] theorem setRam_tone (s : State) (m : Memory) : (s.setRam m).tone = s.tone := rfl
@[simp] theorem setRam_fault (s : State) (m : Memory) : (s.setRam m).fault = s.fault := rfl
@[simp] theorem setRam_cfg (s : State) (m : Memory) : (s.setRam m).cfg = s.cfg := rfl
@[simp] theorem setRam_draws (s : State) (m : Memory) : (s.setRam m).draws = s.draws := rfl
@[simp] theorem setRam_tones (s : State) (m : Memory) : (s.setRam m).tones = s.tones := rfl
@[simp] theorem setRam_pending (s : State) (m : Memory) : (s.setRam m).pending = s.pending := rfl
@[simp] theorem setRam_reg (s : State) (m : Memory) (r : Reg) : (s.setRam m).reg r = s.reg r := rfl
@[simp] theorem setRam_sp (s : State) (m : Memory) : (s.setRam m).sp = s.sp := rfl
@[simp] theorem setRam_base (s : State) (m : Memory) : (s.setRam m).base = s.base := rfl

/-! ### setFb -/

@[simp] theorem setFb_v (s : State) (p : Pixels) : (s.setFb p).v = s.v := rfl
@[simp] theorem setFb_i (s : State) (p : Pixels) : (s.setFb p).i = s.i := rfl
@[simp] theorem setFb_pc (s : State) (p : Pixels) : (s.setFb p).pc = s.pc := rfl
@[simp] theorem setFb_stack (s : State) (p : Pixels) : (s.setFb p).stack = s.stack := rfl
@[simp] theorem setFb_dt (s : State) (p : Pixels) : (s.setFb p).dt = s.dt := rfl
@[simp] theorem setFb_st (s : State) (p : Pixels) : (s.setFb p).st = s.st := rfl
@[simp] theorem setFb_ram (s : State) (p : Pixels) : (s.setFb p).ram = s.ram := rfl
@[simp] theorem setFb_fb (s : State) (p : Pixels) : (s.setFb p).fb = p := rfl
@[simp] theorem setFb_key (s : State) (p : Pixels) : (s.setFb p).key = s.key := rfl
@[simp] theorem setFb_wait (s : State) (p : Pixels) : (s.setFb p).wait = s.wait := rfl
@[simp] theorem setFb_wreg (s : State) (p : Pixels) : (s.setFb p).wreg = s.wreg := rfl
@[simp] theorem setFb_kprev (s : State) (p : Pixels) : (s.setFb p).kprev = s.kprev := rfl
@[simp] theorem setFb_tone (s : State) (p : Pixels) : (s.setFb p).tone = s.tone := rfl
@[simp] theorem setFb_fault (s : State) (p : Pixels) : (s.setFb p).fault = s.fault := rfl
@[simp] theorem setFb_cfg (s : State) (p : Pixels) : (s.setFb p).cfg = s.cfg := rfl
@[simp] theorem setFb_draws (s : State) (p : Pixels) : (s.setFb p).draws = s.draws := rfl
@[simp] theorem setFb_tones (s : State) (p : Pixels) : (s.setFb p).tones = s.tones := rfl
@[simp] theorem setFb_pending (s : State) (p : Pixels) : (s.setFb p).pending = s.pending := rfl
@[simp] theorem setFb_reg (s : State) (p : Pixels) (r : Reg) : (s.setFb p).reg r = s.reg r := rfl
@[simp] theorem setFb_sp (s : State) (p : Pixels) : (s.setFb p).sp = s.sp := rfl
@[simp] theorem setFb_base (s : State) (p : Pixels) : (s.setFb p).base = s.base := rfl

/-! ### setKprev -/

@[simp] theorem setKprev_v (s : State) (k : Word) : (s.setKprev k).v = s.v := rfl
@[simp] theorem setKprev_i (s : State) (k : Word) : (s.setKprev k).i = s.i := rfl
@[simp] theorem setKprev_pc (s : State) (k : Word) : (s.setKprev k).pc = s.pc := rfl
@[simp] theorem setKprev_stack (s : State) (k : Word) : (s.setKprev k).stack = s.stack := rfl
@[simp] theorem setKprev_dt (s : State) (k : Word) : (s.setKprev k).dt = s.dt := rfl
@[simp] theorem setKprev_st (s : State) (k : Word) : (s.setKprev k).st = s.st := rfl
@[simp] theorem setKprev_ram (s : State) (k : Word) : (s.setKprev k).ram = s.ram := rfl
@[simp] theorem setKprev_fb (s : State) (k : Word) : (s.setKprev k).fb = s.fb := rfl
@[simp] theorem setKprev_key (s : State) (k : Word) : (s.setKprev k).key = s.key := rfl
@[simp] theorem setKprev_wait (s : State) (k : Word) : (s.setKprev k).wait = s.wait := rfl
@[simp] theorem setKprev_wreg (s : State) (k : Word) : (s.setKprev k).wreg = s.wreg := rfl
@[simp] theorem setKprev_kprev (s : State) (k : Word) : (s.setKprev k).kprev = k := rfl
@[simp] theorem setKprev_tone (s : State) (k : Word) : (s.setKprev k).tone = s.tone := rfl
@[simp] theorem setKprev_fault (s : State) (k : Word) : (s.setKprev k).fault = s.fault := rfl
@[simp] theorem setKprev_cfg (s : State) (k : Word) : (s.setKprev k).cfg = s.cfg := rfl
@[simp] theorem setKprev_draws (s : State) (k : Word) : (s.setKprev k).draws = s.draws := rfl
@[simp] theorem setKprev_tones (s : State) (k : Word) : (s.setKprev k).tones = s.tones := rfl
@[simp] theorem setKprev_pending (s : State) (k : Word) : (s.setKprev k).pending = s.pending := rfl
@[simp] theorem setKprev_reg (s : State) (k : Word) (r : Reg) : (s.setKprev k).reg r = s.reg r := rfl
@[simp] theorem setKprev_sp (s : State) (k : Word) : (s.setKprev k).sp = s.sp := rfl
@[simp] theorem setKprev_base (s : State) (k : Word) : (s.setKprev k).base = s.base := rfl

/-! ### setWait -/

@[simp] theorem setWait_v (s : State) (w : Bool) : (s.setWait w).v = s.v := rfl
@[simp] theorem setWait_i (s : State) (w : Bool) : (s.setWait w).i = s.i := rfl
@[simp] theorem setWait_pc (s : State) (w : Bool) : (s.setWait w).pc = s.pc := rfl
@[simp] theorem setWait_stack (s : State) (w : Bool) : (s.setWait w).stack = s.stack := rfl
@[simp] theorem setWait_dt (s : State) (w : Bool) : (s.setWait w).dt = s.dt := rfl
@[simp] theorem setWait_st (s : State) (w : Bool) : (s.setWait w).st = s.st := rfl
@[simp] theorem setWait_ram (s : State) (w : Bool) : (s.setWait w).ram = s.ram := rfl
@[simp] theorem setWait_fb (s : State) (w : Bool) : (s.setWait w).fb = s.fb := rfl
@[simp] theorem setWait_key (s : State) (w : Bool) : (s.setWait w).key = s.key := rfl
@[simp] theorem setWait_wait (s : State) (w : Bool) : (s.setWait w).wait = w := rfl
@[simp] theorem setWait_wreg (s : State) (w : Bool) : (s.setWait w).wreg = s.wreg := rfl
@[simp] theorem setWait_kprev (s : State) (w : Bool) : (s.setWait w).kprev = s.kprev := rfl
@[simp] theorem setWait_tone (s : State) (w : Bool) : (s.setWait w).tone = s.tone := rfl
@[simp] theorem setWait_fault (s : State) (w : Bool) : (s.setWait w).fault = s.fault := rfl
@[simp] theorem setWait_cfg (s : State) (w : Bool) : (s.setWait w).cfg = s.cfg := rfl
@[simp] theorem setWait_draws (s : State) (w : Bool) : (s.setWait w).draws = s.draws := rfl
@[simp] theorem setWait_tones (s : State) (w : Bool) : (s.setWait w).tones = s.tones := rfl
@[simp] theorem setWait_pending (s : State) (w : Bool) : (s.setWait w).pending = s.pending := rfl
@[simp] theorem setWait_reg (s : State) (w : Bool) (r : Reg) : (s.setWait w).reg r = s.reg r := rfl
@[simp] theorem setWait_sp (s : State) (w : Bool) : (s.setWait w).sp = s.sp := rfl
@[simp] theorem setWait_base (s : State) (w : Bool) : (s.setWait w).base = s.base := rfl

/-! ### setWreg -/

@[simp] theorem setWreg_v (s : State) (x : Reg) : (s.setWreg x).v = s.v := rfl
@[simp] theorem setWreg_i (s : State) (x : Reg) : (s.setWreg x).i = s.i := rfl
@[simp] theorem setWreg_pc (s : State) (x : Reg) : (s.setWreg x).pc = s.pc := rfl
@[simp] theorem setWreg_stack (s : State) (x : Reg) : (s.setWreg x).stack = s.stack := rfl
@[simp] theorem setWreg_dt (s : State) (x : Reg) : (s.setWreg x).dt = s.dt := rfl
@[simp] theorem setWreg_st (s : State) (x : Reg) : (s.setWreg x).st = s.st := rfl
@[simp] theorem setWreg_ram (s : State) (x : Reg) : (s.setWreg x).ram = s.ram := rfl
@[simp] theorem setWreg_fb (s : State) (x : Reg) : (s.setWreg x).fb = s.fb := rfl
@[simp] theorem setWreg_key (s : State) (x : Reg) : (s.setWreg x).key = s.key := rfl
@[simp] theorem setWreg_wait (s : State) (x : Reg) : (s.setWreg x).wait = s.wait := rfl
@[simp] theorem setWreg_wreg (s : State) (x : Reg) : (s.setWreg x).wreg = x := rfl
@[simp] theorem setWreg_kprev (s : State) (x : Reg) : (s.setWreg x).kprev = s.kprev := rfl
@[simp] theorem setWreg_tone (s : State) (x : Reg) : (s.setWreg x).tone = s.tone := rfl
@[simp] theorem setWreg_fault (s : State) (x : Reg) : (s.setWreg x).fault = s.fault := rfl
@[simp] theorem setWreg_cfg (s : State) (x : Reg) : (s.setWreg x).cfg = s.cfg := rfl
@[simp] theorem setWreg_draws (s : State) (x : Reg) : (s.setWreg x).draws = s.draws := rfl
@[simp] theorem setWreg_tones (s : State) (x : Reg) : (s.setWreg x).tones = s.tones := rfl
@[simp] theorem setWreg_pending (s : State) (x : Reg) : (s.setWreg x).pending = s.pending := rfl
@[simp] theorem setWreg_reg (s : State) (x : Reg) (r : Reg) : (s.setWreg x).reg r = s.reg r := rfl
@[simp] theorem setWreg_sp (s : State) (x : Reg) : (s.setWreg x).sp = s.sp := rfl
@[simp] theorem setWreg_base (s : State) (x : Reg) : (s.setWreg x).base = s.base := rfl

/-! ### countDraw -/

@[simp] theorem countDraw_v (s : State) : s.countDraw.v = s.v := rfl
@[simp] theorem countDraw_i (s : State) : s.countDraw.i = s.i := rfl
@[simp] theorem countDraw_pc (s : State) : s.countDraw.pc = s.pc := rfl
@[simp] theorem countDraw_stack (s : State) : s.countDraw.stack = s.stack := rfl
@[simp] theorem countDraw_dt (s : State) : s.countDraw.dt = s.dt := rfl
@[simp] theorem countDraw_st (s : State) : s.countDraw.st = s.st := rfl
@[simp] theorem countDraw_ram (s : State) : s.countDraw.ram = s.ram := rfl
@[simp] theorem countDraw_fb (s : State) : s.countDraw.fb = s.fb := rfl
@[simp] theorem countDraw_key (s : State) : s.countDraw.key = s.key := rfl
@[simp] theorem countDraw_wait (s : State) : s.countDraw.wait = s.wait := rfl
@[simp] theorem countDraw_wreg (s : State) : s.countDraw.wreg = s.wreg := rfl
@[simp] theorem countDraw_kprev (s : State) : s.countDraw.kprev = s.kprev := rfl
@[simp] theorem countDraw_tone (s : State) : s.countDraw.tone = s.tone := rfl
@[simp] theorem countDraw_fault (s : State) : s.countDraw.fault = s.fault := rfl
@[simp] theorem countDraw_cfg (s : State) : s.countDraw.cfg = s.cfg := rfl
@[simp] theorem countDraw_draws (s : State) : s.countDraw.draws = s.draws + 1 := rfl
@[simp] theorem countDraw_tones (s : State) : s.countDraw.tones = s.tones := rfl
@[simp] theorem countDraw_pending (s : State) : s.countDraw.pending = s.pending := rfl
@[simp] theorem countDraw_reg (s : State) (r : Reg) : s.countDraw.reg r = s.reg r := rfl
@[simp] theorem countDraw_sp (s : State) : s.countDraw.sp = s.sp := rfl
@[simp] theorem countDraw_base (s : State) : s.countDraw.base = s.base := rfl

/-! ### emit -/

@[simp] theorem emit_v (s : State) (p : ToneSignal) (l : Bool) : (s.emit p l).v = s.v := rfl
@[simp] theorem emit_i (s : State) (p : ToneSignal) (l : Bool) : (s.emit p l).i = s.i := rfl
@[simp] theorem emit_pc (s : State) (p : ToneSignal) (l : Bool) : (s.emit p l).pc = s.pc := rfl
@[simp] theorem emit_stack (s : State) (p : ToneSignal) (l : Bool) : (s.emit p l).stack = s.stack := rfl
@[simp] theorem emit_dt (s : State) (p : ToneSignal) (l : Bool) : (s.emit p l).dt = s.dt := rfl
@[simp] theorem emit_st (s : State) (p : ToneSignal) (l : Bool) : (s.emit p l).st = s.st := rfl
@[simp] theorem emit_ram (s : State) (p : ToneSignal) (l : Bool) : (s.emit p l).ram = s.ram := rfl
@[simp] theorem emit_fb (s : State) (p : ToneSignal) (l : Bool) : (s.emit p l).fb = s.fb := rfl
@[simp] theorem emit_key (s : State) (p : ToneSignal) (l : Bool) : (s.emit p l).key = s.key := rfl
@[simp] theorem emit_wait (s : State) (p : ToneSignal) (l : Bool) : (s.emit p l).wait = s.wait := rfl
@[simp] theorem emit_wreg (s : State) (p : ToneSignal) (l : Bool) : (s.emit p l).wreg = s.wreg := rfl
@[simp] theorem emit_kprev (s : State) (p : ToneSignal) (l : Bool) : (s.emit p l).kprev = s.kprev := rfl
@[simp] theorem emit_tone (s : State) (p : ToneSignal) (l : Bool) : (s.emit p l).tone = l := rfl
@[simp] theorem emit_fault (s : State) (p : ToneSignal) (l : Bool) : (s.emit p l).fault = s.fault := rfl
@[simp] theorem emit_cfg (s : State) (p : ToneSignal) (l : Bool) : (s.emit p l).cfg = s.cfg := rfl
@[simp] theorem emit_draws (s : State) (p : ToneSignal) (l : Bool) : (s.emit p l).draws = s.draws := rfl
@[simp] theorem emit_tones (s : State) (p : ToneSignal) (l : Bool) : (s.emit p l).tones = s.tones ++ [p] := rfl
@[simp] theorem emit_pending (s : State) (p : ToneSignal) (l : Bool) : (s.emit p l).pending = s.pending := rfl
@[simp] theorem emit_reg (s : State) (p : ToneSignal) (l : Bool) (r : Reg) : (s.emit p l).reg r = s.reg r := rfl
@[simp] theorem emit_sp (s : State) (p : ToneSignal) (l : Bool) : (s.emit p l).sp = s.sp := rfl
@[simp] theorem emit_base (s : State) (p : ToneSignal) (l : Bool) : (s.emit p l).base = s.base := rfl

/-! ### setPending -/

@[simp] theorem setPending_v (s : State) (l : List Event) : (s.setPending l).v = s.v := rfl
@[simp] theorem setPending_i (s : State) (l : List Event) : (s.setPending l).i = s.i := rfl
@[simp] theorem setPending_pc (s : State) (l : List Event) : (s.setPending l).pc = s.pc := rfl
@[simp] theorem setPending_stack (s : State) (l : List Event) : (s.setPending l).stack = s.stack := rfl
@[simp] theorem setPending_dt (s : State) (l : List Event) : (s.setPending l).dt = s.dt := rfl
@[simp] theorem setPending_st (s : State) (l : List Event) : (s.setPending l).st = s.st := rfl
@[simp] theorem setPending_ram (s : State) (l : List Event) : (s.setPending l).ram = s.ram := rfl
@[simp] theorem setPending_fb (s : State) (l : List Event) : (s.setPending l).fb = s.fb := rfl
@[simp] theorem setPending_key (s : State) (l : List Event) : (s.setPending l).key = s.key := rfl
@[simp] theorem setPending_wait (s : State) (l : List Event) : (s.setPending l).wait = s.wait := rfl
@[simp] theorem setPending_wreg (s : State) (l : List Event) : (s.setPending l).wreg = s.wreg := rfl
@[simp] theorem setPending_kprev (s : State) (l : List Event) : (s.setPending l).kprev = s.kprev := rfl
@[simp] theorem setPending_tone (s : State) (l : List Event) : (s.setPending l).tone = s.tone := rfl
@[simp] theorem setPending_fault (s : State) (l : List Event) : (s.setPending l).fault = s.fault := rfl
@[simp] theorem setPending_cfg (s : State) (l : List Event) : (s.setPending l).cfg = s.cfg := rfl
@[simp] theorem setPending_draws (s : State) (l : List Event) : (s.setPending l).draws = s.draws := rfl
@[simp] theorem setPending_tones (s : State) (l : List Event) : (s.setPending l).tones = s.tones := rfl
@[simp] theorem setPending_pending (s : State) (l : List Event) : (s.setPending l).pending = l := rfl
@[simp] theorem setPending_reg (s : State) (l : List Event) (r : Reg) : (s.setPending l).reg r = s.reg r := rfl
@[simp] theorem setPending_sp (s : State) (l : List Event) : (s.setPending l).sp = s.sp := rfl
@[simp] theorem setPending_base (s : State) (l : List Event) : (s.setPending l).base = s.base := rfl

/-! ### raise -/

@[simp] theorem raise_v (s : State) (f : FaultRecord) : (s.raise f).v = s.v := rfl
@[simp] theorem raise_i (s : State) (f : FaultRecord) : (s.raise f).i = s.i := rfl
@[simp] theorem raise_pc (s : State) (f : FaultRecord) : (s.raise f).pc = s.pc := rfl
@[simp] theorem raise_stack (s : State) (f : FaultRecord) : (s.raise f).stack = s.stack := rfl
@[simp] theorem raise_dt (s : State) (f : FaultRecord) : (s.raise f).dt = s.dt := rfl
@[simp] theorem raise_st (s : State) (f : FaultRecord) : (s.raise f).st = s.st := rfl
@[simp] theorem raise_ram (s : State) (f : FaultRecord) : (s.raise f).ram = s.ram := rfl
@[simp] theorem raise_fb (s : State) (f : FaultRecord) : (s.raise f).fb = s.fb := rfl
@[simp] theorem raise_key (s : State) (f : FaultRecord) : (s.raise f).key = s.key := rfl
@[simp] theorem raise_wait (s : State) (f : FaultRecord) : (s.raise f).wait = s.wait := rfl
@[simp] theorem raise_wreg (s : State) (f : FaultRecord) : (s.raise f).wreg = s.wreg := rfl
@[simp] theorem raise_kprev (s : State) (f : FaultRecord) : (s.raise f).kprev = s.kprev := rfl
@[simp] theorem raise_tone (s : State) (f : FaultRecord) : (s.raise f).tone = s.tone := rfl
@[simp] theorem raise_fault (s : State) (f : FaultRecord) : (s.raise f).fault = some f := rfl
@[simp] theorem raise_cfg (s : State) (f : FaultRecord) : (s.raise f).cfg = s.cfg := rfl
@[simp] theorem raise_draws (s : State) (f : FaultRecord) : (s.raise f).draws = s.draws := rfl
@[simp] theorem raise_tones (s : State) (f : FaultRecord) : (s.raise f).tones = s.tones := rfl
@[simp] theorem raise_pending (s : State) (f : FaultRecord) : (s.raise f).pending = s.pending := rfl
@[simp] theorem raise_reg (s : State) (f : FaultRecord) (r : Reg) : (s.raise f).reg r = s.reg r := rfl
@[simp] theorem raise_sp (s : State) (f : FaultRecord) : (s.raise f).sp = s.sp := rfl
@[simp] theorem raise_base (s : State) (f : FaultRecord) : (s.raise f).base = s.base := rfl

/-! ### keyRefresh -/

@[simp] theorem keyRefresh_v (s : State) (k : Word) : (s.keyRefresh k).v = s.v := rfl
@[simp] theorem keyRefresh_i (s : State) (k : Word) : (s.keyRefresh k).i = s.i := rfl
@[simp] theorem keyRefresh_pc (s : State) (k : Word) : (s.keyRefresh k).pc = s.pc := rfl
@[simp] theorem keyRefresh_stack (s : State) (k : Word) : (s.keyRefresh k).stack = s.stack := rfl
@[simp] theorem keyRefresh_dt (s : State) (k : Word) : (s.keyRefresh k).dt = s.dt := rfl
@[simp] theorem keyRefresh_st (s : State) (k : Word) : (s.keyRefresh k).st = s.st := rfl
@[simp] theorem keyRefresh_ram (s : State) (k : Word) : (s.keyRefresh k).ram = s.ram := rfl
@[simp] theorem keyRefresh_fb (s : State) (k : Word) : (s.keyRefresh k).fb = s.fb := rfl
@[simp] theorem keyRefresh_key (s : State) (k : Word) : (s.keyRefresh k).key = k := rfl
@[simp] theorem keyRefresh_wait (s : State) (k : Word) : (s.keyRefresh k).wait = s.wait := rfl
@[simp] theorem keyRefresh_wreg (s : State) (k : Word) : (s.keyRefresh k).wreg = s.wreg := rfl
@[simp] theorem keyRefresh_kprev (s : State) (k : Word) : (s.keyRefresh k).kprev = s.kprev := rfl
@[simp] theorem keyRefresh_tone (s : State) (k : Word) : (s.keyRefresh k).tone = s.tone := rfl
@[simp] theorem keyRefresh_fault (s : State) (k : Word) : (s.keyRefresh k).fault = s.fault := rfl
@[simp] theorem keyRefresh_cfg (s : State) (k : Word) : (s.keyRefresh k).cfg = s.cfg := rfl
@[simp] theorem keyRefresh_draws (s : State) (k : Word) : (s.keyRefresh k).draws = s.draws := rfl
@[simp] theorem keyRefresh_tones (s : State) (k : Word) : (s.keyRefresh k).tones = s.tones := rfl
@[simp] theorem keyRefresh_pending (s : State) (k : Word) : (s.keyRefresh k).pending = s.pending := rfl
@[simp] theorem keyRefresh_reg (s : State) (k : Word) (r : Reg) : (s.keyRefresh k).reg r = s.reg r := rfl
@[simp] theorem keyRefresh_sp (s : State) (k : Word) : (s.keyRefresh k).sp = s.sp := rfl
@[simp] theorem keyRefresh_base (s : State) (k : Word) : (s.keyRefresh k).base = s.base := rfl

/-! ### advance -/

@[simp] theorem advance_v (s : State) : s.advance.v = s.v := rfl
@[simp] theorem advance_i (s : State) : s.advance.i = s.i := rfl
@[simp] theorem advance_pc (s : State) : s.advance.pc = s.pc + 2 := rfl
@[simp] theorem advance_stack (s : State) : s.advance.stack = s.stack := rfl
@[simp] theorem advance_dt (s : State) : s.advance.dt = s.dt := rfl
@[simp] theorem advance_st (s : State) : s.advance.st = s.st := rfl
@[simp] theorem advance_ram (s : State) : s.advance.ram = s.ram := rfl
@[simp] theorem advance_fb (s : State) : s.advance.fb = s.fb := rfl
@[simp] theorem advance_key (s : State) : s.advance.key = s.key := rfl
@[simp] theorem advance_wait (s : State) : s.advance.wait = s.wait := rfl
@[simp] theorem advance_wreg (s : State) : s.advance.wreg = s.wreg := rfl
@[simp] theorem advance_kprev (s : State) : s.advance.kprev = s.kprev := rfl
@[simp] theorem advance_tone (s : State) : s.advance.tone = s.tone := rfl
@[simp] theorem advance_fault (s : State) : s.advance.fault = s.fault := rfl
@[simp] theorem advance_cfg (s : State) : s.advance.cfg = s.cfg := rfl
@[simp] theorem advance_draws (s : State) : s.advance.draws = s.draws := rfl
@[simp] theorem advance_tones (s : State) : s.advance.tones = s.tones := rfl
@[simp] theorem advance_pending (s : State) : s.advance.pending = s.pending := rfl
@[simp] theorem advance_reg (s : State) (r : Reg) : s.advance.reg r = s.reg r := rfl
@[simp] theorem advance_sp (s : State) : s.advance.sp = s.sp := rfl
@[simp] theorem advance_base (s : State) : s.advance.base = s.base := rfl

/-! ### skipIf -/

@[simp] theorem skipIf_v (s : State) (c : Bool) : (s.skipIf c).v = s.v := rfl
@[simp] theorem skipIf_i (s : State) (c : Bool) : (s.skipIf c).i = s.i := rfl
@[simp] theorem skipIf_pc (s : State) (c : Bool) : (s.skipIf c).pc = if c then s.pc + 4 else s.pc + 2 := rfl
@[simp] theorem skipIf_stack (s : State) (c : Bool) : (s.skipIf c).stack = s.stack := rfl
@[simp] theorem skipIf_dt (s : State) (c : Bool) : (s.skipIf c).dt = s.dt := rfl
@[simp] theorem skipIf_st (s : State) (c : Bool) : (s.skipIf c).st = s.st := rfl
@[simp] theorem skipIf_ram (s : State) (c : Bool) : (s.skipIf c).ram = s.ram := rfl
@[simp] theorem skipIf_fb (s : State) (c : Bool) : (s.skipIf c).fb = s.fb := rfl
@[simp] theorem skipIf_key (s : State) (c : Bool) : (s.skipIf c).key = s.key := rfl
@[simp] theorem skipIf_wait (s : State) (c : Bool) : (s.skipIf c).wait = s.wait := rfl
@[simp] theorem skipIf_wreg (s : State) (c : Bool) : (s.skipIf c).wreg = s.wreg := rfl
@[simp] theorem skipIf_kprev (s : State) (c : Bool) : (s.skipIf c).kprev = s.kprev := rfl
@[simp] theorem skipIf_tone (s : State) (c : Bool) : (s.skipIf c).tone = s.tone := rfl
@[simp] theorem skipIf_fault (s : State) (c : Bool) : (s.skipIf c).fault = s.fault := rfl
@[simp] theorem skipIf_cfg (s : State) (c : Bool) : (s.skipIf c).cfg = s.cfg := rfl
@[simp] theorem skipIf_draws (s : State) (c : Bool) : (s.skipIf c).draws = s.draws := rfl
@[simp] theorem skipIf_tones (s : State) (c : Bool) : (s.skipIf c).tones = s.tones := rfl
@[simp] theorem skipIf_pending (s : State) (c : Bool) : (s.skipIf c).pending = s.pending := rfl
@[simp] theorem skipIf_reg (s : State) (c : Bool) (r : Reg) : (s.skipIf c).reg r = s.reg r := rfl
@[simp] theorem skipIf_sp (s : State) (c : Bool) : (s.skipIf c).sp = s.sp := rfl
@[simp] theorem skipIf_base (s : State) (c : Bool) : (s.skipIf c).base = s.base := rfl

end Sys2Proof.Machine.State
end

