-- ==== Sys2Proof/Laws/Ops.lean ====
section
/-!
SUPPORT. What each shared operation does, said once: registers, the range check, faulting or completing, the stack,
fetching.
-/

namespace Sys2Proof.Machine

/-! ### Registers -/

/-- A register read after a register write (10_state R20: no register is hardwired). -/
@[simp] theorem State.setReg_reg (s : State) (x r : Reg) (b : Byte) :
    (s.setReg x b).reg r = if x = r then b else s.reg r := by
  simp [State.reg, Vector.getElem_set, BitVec.toNat_inj]

@[simp] theorem State.setRegs_reg (s : State) (v : Vector Byte 16) (r : Reg) :
    (s.setRegs v).reg r = v[r.toNat] := rfl

/-- The result and then the flag: with `x = 15` the flag remains (00_scope R13). -/
@[simp] theorem State.setResultFlag_reg (s : State) (x r : Reg) (a f : Byte) :
    (s.setResultFlag x a f).reg r = if flagReg = r then f else if x = r then a else s.reg r := by
  simp [State.setResultFlag]

/-- `setResultFlag` writes the registers and nothing else. -/
theorem State.setResultFlag_eq (s : State) (x : Reg) (a f : Byte) :
    s.setResultFlag x a f = s.setRegs (s.setResultFlag x a f).v := rfl

/-! ### Faulting or completing -/

@[simp] theorem State.complete_ok (s t : State) : s.complete (.ok t) = .next t := rfl

@[simp] theorem State.complete_error (s : State) (f : FaultRecord) :
    s.complete (.error f) = .next (s.raise f) := rfl

/-- Everything `complete` can answer: the checked effect, or the state with the fault latched (60 R212). -/
theorem State.complete_cases {s t : State} {r : Except FaultRecord State} (h : s.complete r = .next t) :
    r = .ok t ∨ ∃ f, r = .error f ∧ t = s.raise f := by
  cases r with
  | ok u => exact .inl (congrArg Except.ok (Host.Outcome.next.inj h))
  | error f => exact .inr ⟨f, rfl, (Host.Outcome.next.inj h).symm⟩

/-- The range check passes exactly when every byte lies in RAM (20_memory R66). -/
theorem checkRange_ok {a n : Nat} (h : n = 0 ∨ a + n ≤ Config.ramSize) : checkRange a n = .ok () :=
  if_pos h

/-- The range check fails when a byte lies past RAM, naming the least such address (20_memory R66). -/
theorem checkRange_error {a n : Nat} (h : ¬ (n = 0 ∨ a + n ≤ Config.ramSize)) :
    checkRange a n = .error (outOfRangeAt a) := if_neg h

@[simp] theorem except_bind_ok {α β ε : Type} (a : α) (f : α → Except ε β) :
    ((Except.ok a : Except ε α) >>= f) = f a := rfl

@[simp] theorem except_bind_error {α β ε : Type} (e : ε) (f : α → Except ε β) :
    ((Except.error e : Except ε α) >>= f) = .error e := rfl

@[simp] theorem except_pure {α ε : Type} (a : α) : (pure a : Except ε α) = .ok a := rfl

/-- A checked instruction whose range is in RAM has its effect. -/
theorem State.complete_checked (s t : State) {a n : Nat} (h : n = 0 ∨ a + n ≤ Config.ramSize) :
    s.complete (do checkRange a n; return t) = .next t := by
  simp [checkRange_ok h]

/-- A checked instruction whose range leaves RAM changes nothing but the fault latch (60 R212). -/
theorem State.complete_unchecked (s t : State) {a n : Nat} (h : ¬ (n = 0 ∨ a + n ≤ Config.ramSize)) :
    s.complete (do checkRange a n; return t) = .next (s.raise (outOfRangeAt a)) := by
  simp [checkRange_error h]

/-- The least offending address of a 16-bit start address fits `info` (60 R210). -/
theorem outOfRangeAt_info (a : Word) :
    (outOfRangeAt a.toNat).info.toNat = max a.toNat Config.ramSize := by
  simp only [outOfRangeAt, BitVec.toNat_ofNat, Config.ramSize]
  have := a.isLt
  omega

/-! ### Call stack -/

theorem State.push_ok (s : State) (a : Word) (h : s.sp < Config.stackDepth) :
    s.push a = .ok (s.setStack (a :: s.stack)) := if_neg (by omega)

theorem State.push_full (s : State) (a : Word) (h : Config.stackDepth ≤ s.sp) :
    s.push a = .error ⟨.stackOverflow, 0⟩ := if_pos h

theorem State.pop_cons (s : State) {a : Word} {l : List Word} (h : s.stack = a :: l) :
    s.pop = .ok (a, s.setStack l) := by simp [State.pop, h]

theorem State.pop_nil (s : State) (h : s.stack = []) : s.pop = .error ⟨.stackUnderflow, 0⟩ := by
  simp [State.pop, h]

/-! ### Fetch -/

/-- A fetch with both bytes in RAM gives the big-endian word at `PC` (20_memory R67, R69). -/
theorem State.fetch_ok (s : State) (h : s.pc.toNat + 2 ≤ Config.ramSize) : s.fetch = .ok s.wordAtPc := by
  simp [State.fetch, State.memReadWord, checkRange_ok (.inr h), State.wordAtPc]

/-- A fetch that reaches past RAM faults as a whole (20_memory R67). -/
theorem State.fetch_error (s : State) (h : ¬ s.pc.toNat + 2 ≤ Config.ramSize) :
    s.fetch = .error (outOfRangeAt s.pc.toNat) := by
  simp [State.fetch, State.memReadWord, checkRange_error (a := s.pc.toNat) (n := 2) (by simpa using h)]

end Sys2Proof.Machine
end

