-- ==== Sys2Proof/Laws/Display.lean ====
section
/-!
SUPPORT. The framebuffer: one pixel toggled, all others as before, and what one sprite column and one sprite row do.
-/

namespace Sys2Proof.Machine

@[simp] theorem fbGet_clear (i : Nat) : fbGet fbClear i = false := by
  unfold fbGet fbClear
  rcases h : (Vector.replicate 32 (0 : PixelRow))[i / Config.fbWidth]? with _ | r
  · simp
  · obtain ⟨h1, h2⟩ := Vector.getElem?_eq_some_iff.1 h
    simp at h2
    simp [← h2]

/-- Toggling a pixel of the grid flips that pixel and no other (43 R180). -/
theorem fbGet_toggle (p : Pixels) (i j : Nat) (hi : i < 2048) :
    fbGet (fbToggle p i) j = (fbGet p j ^^ decide (i = j)) := by
  have h32 : i / 64 < 32 := by omega
  unfold fbGet fbToggle
  simp only [Config.fbWidth, Vector.getElem?_setIfInBounds, h32, if_true]
  by_cases hr : i / 64 = j / 64
  · rw [if_pos hr, Option.getD_some, BitVec.getLsbD_xor, BitVec.getLsbD_twoPow, hr]
    have h64 : j % 64 < 64 := Nat.mod_lt _ (by decide)
    congr 1
    have h1 : (i % 64 = j % 64) ↔ i = j := by omega
    have h2 : i % 64 < 64 := Nat.mod_lt _ (by decide)
    simp [h1, h2]
  · rw [if_neg hr]
    have : ¬ i = j := fun h => hr (by rw [h])
    simp [this]

theorem pixelIndex_lt (px py : Nat) : pixelIndex px py < 2048 := by
  simp only [pixelIndex, Config.fbHeight, Config.fbWidth]
  omega

/-- Two places are the same pixel exactly when both coordinates agree modulo the grid (43 R184). -/
theorem pixelIndex_inj (px py qx qy : Nat) :
    pixelIndex px py = pixelIndex qx qy ↔ px % 64 = qx % 64 ∧ py % 32 = qy % 32 := by
  simp only [pixelIndex, Config.fbHeight, Config.fbWidth]
  omega

@[simp] theorem Canvas.setPixelXor_get (c : Canvas) (px py i : Nat) :
    fbGet (c.setPixelXor px py).fb i = (fbGet c.fb i ^^ decide (pixelIndex px py = i)) :=
  fbGet_toggle _ _ _ (pixelIndex_lt px py)

@[simp] theorem Canvas.setPixelXor_collision (c : Canvas) (px py : Nat) :
    (c.setPixelXor px py).collision = (c.collision || fbGet c.fb (pixelIndex px py)) := rfl

/-- One sprite column toggles its pixel when its bit is set, and is a collision when that pixel was on (43 R182). -/
theorem Canvas.drawColumn_get (b : Byte) (x0 py : Nat) (c : Canvas) (j i : Nat) :
    fbGet (c.drawColumn b x0 py j).fb i =
      (fbGet c.fb i ^^ (b.getLsbD (7 - j) && decide (pixelIndex (x0 + j) py = i))) := by
  unfold Canvas.drawColumn
  split <;> rename_i h
  · simp [h]
  · simp [Bool.not_eq_true _ ▸ h]

theorem Canvas.drawColumn_collision (b : Byte) (x0 py : Nat) (c : Canvas) (j : Nat) :
    (c.drawColumn b x0 py j).collision =
      (c.collision || (b.getLsbD (7 - j) && fbGet c.fb (pixelIndex (x0 + j) py))) := by
  unfold Canvas.drawColumn
  split <;> rename_i h
  · simp [h]
  · simp [Bool.not_eq_true _ ▸ h]

end Sys2Proof.Machine
end

