-- ==== Sys2Proof/Laws/Operands.lean ====
section
/-!
SUPPORT. What the operand forms and the flag computations are: the bulk register range, the decimal digits, the
lowest set bit, the arithmetic modulo 256.
-/

namespace Sys2Proof.Machine

@[simp] theorem State.bulkRegs_length (s : State) (x : Reg) : (s.bulkRegs x).length = bulkCount x := by
  simp [State.bulkRegs]

/-- Byte `k` of the range is `V[k]` (42 R165). -/
@[simp] theorem State.bulkRegs_get? (s : State) (x : Reg) (k : Nat) :
    (s.bulkRegs x)[k]? = if k < bulkCount x then some (s.reg (BitVec.ofNat 4 k)) else none := by
  simp only [State.bulkRegs, List.getElem?_map]
  split
  · rw [List.getElem?_range (by assumption)]; rfl
  · rw [List.getElem?_eq_none (by simpa using by omega)]; rfl

theorem bulkCount_le (x : Reg) : bulkCount x ≤ 16 := by
  have := x.isLt
  unfold bulkCount
  omega

/-- Storing `f k` at each `k < n` of a vector. -/
theorem foldl_setIfInBounds (f : Nat → Byte) (v : Vector Byte 16) (n j : Nat) (hj : j < 16) :
    ((List.range n).foldl (fun v k => v.setIfInBounds k (f k)) v)[j] = if j < n then f j else v[j] := by
  induction n with
  | zero => simp
  | succ n ih =>
    rw [List.range_succ, List.foldl_append, List.foldl_cons, List.foldl_nil,
      Vector.getElem_setIfInBounds]
    by_cases h : n = j
    · subst h; simp
    · rw [if_neg h, ih]
      by_cases h2 : j < n
      · rw [if_pos h2, if_pos (by omega)]
      · rw [if_neg h2, if_neg (by omega)]

/-- After a bulk load `V[0]` to `V[x]` hold the bytes from `I` up and the others are as before (42 R166). -/
theorem State.bulkLoaded_get (s : State) (x : Reg) (j : Nat) (hj : j < 16) :
    (s.bulkLoaded x)[j] = if j < bulkCount x then s.ram.read (s.base + j) else s.v[j] :=
  foldl_setIfInBounds (fun k => s.ram.read (s.base + k)) s.v (bulkCount x) j hj

@[simp] theorem bcdDigits_length (b : Byte) : (bcdDigits b).length = 3 := rfl

/-- `lowestSet` finds the least set bit (00_scope R11). -/
theorem lowestSet_some {m : Word} {k : Nat} :
    lowestSet m = some k ↔ k < 16 ∧ m.getLsbD k = true ∧ ∀ j < k, m.getLsbD j = false := by
  unfold lowestSet
  rw [List.find?_range_eq_some]
  simp only [List.mem_range, Bool.not_eq_eq_eq_not, Bool.not_true]
  constructor
  · rintro ⟨h1, h2, h3⟩; exact ⟨h2, h1, fun j hj => h3 j hj⟩
  · rintro ⟨h1, h2, h3⟩; exact ⟨h2, h1, fun j hj => h3 j hj⟩

/-- `lowestSet` finds nothing exactly in zero. -/
theorem lowestSet_none {m : Word} : lowestSet m = none ↔ m = 0 := by
  unfold lowestSet
  rw [List.find?_range_eq_none]
  constructor
  · intro h
    apply BitVec.eq_of_getLsbD_eq
    intro i hi
    simpa using h i hi
  · rintro rfl; simp

theorem addMod_toNat (a b : Byte) : (addMod a b).toNat = (a.toNat + b.toNat) % 256 := by
  simp [addMod]

theorem subMod_toInt (a b : Byte) : ((subMod a b).toNat : Int) = ((a.toNat : Int) - b.toNat) % 256 := by
  unfold subMod
  rw [BitVec.toNat_ofInt]
  have : (0 : Int) ≤ ((a.toNat : Int) - b.toNat) % ((2 ^ 8 : Nat) : Int) := Int.emod_nonneg _ (by decide)
  rw [Int.toNat_of_nonneg this]
  rfl

@[simp] theorem lowNibble_toNat (b : Byte) : (lowNibble b).toNat = b.toNat % 16 := by
  simp [lowNibble]

@[simp] theorem zext16_toNat (a : Addr12) : (zext16 a).toNat = a.toNat := by
  have := a.isLt
  simp only [zext16, BitVec.toNat_setWidth]
  omega

theorem flagOf_eq (c : Bool) : flagOf c = 0 ∨ flagOf c = 1 := by cases c <;> simp [flagOf]

end Sys2Proof.Machine
end

