-- ==== Sys2Proof/Laws/Events.lean ====
section
/-!
SUPPORT. What the events that are not instructions can do, said once: the two halves of a `Tick`, the poll of a waiting
cycle, `LoadROM`, and the placing of a word where the next step fetches it.
-/

namespace Sys2Proof.Machine

/-! ### Tick -/

theorem State.tickDelay_eq (s : State) :
    s.tickDelay = s.setDt (if 0 < s.dt.toNat then s.dt - 1 else s.dt) := by
  unfold State.tickDelay
  split <;> rfl

/-- A tick that finds the sound timer running: a start pulse when the tone was off, a stop pulse when the timer
reaches 0 (60 R230). -/
theorem State.tickSound_running (s : State) (h : 0 < s.st.toNat) :
    s.tickSound = if s.st - 1 = 0 then (s.startTone.setSt (s.st - 1)).stopTone
      else s.startTone.setSt (s.st - 1) := if_pos h

/-- A tick that finds the sound timer at 0 but the tone on: a stop pulse only (60 R232). -/
theorem State.tickSound_stale (s : State) (h : s.st.toNat = 0) (ht : s.tone = true) :
    s.tickSound = s.stopTone := by
  simp [State.tickSound, h, ht]

/-- A tick that finds silence: nothing. -/
theorem State.tickSound_silent (s : State) (h : s.st.toNat = 0) (ht : s.tone = false) :
    s.tickSound = s := by
  simp [State.tickSound, h, ht]

/-! ### The poll of a waiting cycle -/

theorem State.waitPoll_none (s : State) (h : s.candidates = 0) : s.waitPoll = s.setKprev s.key := by
  simp [State.waitPoll, lowestSet_none.2 h]

theorem State.waitPoll_some (s : State) {k : Nat} (h : lowestSet s.candidates = some k) :
    s.waitPoll =
      (((s.setKprev s.key).setReg s.wreg (BitVec.ofNat 8 k)).advance).setWait false := by
  simp [State.waitPoll, h]

/-! ### LoadROM -/

theorem State.loadRom_fits (s : State) (bytes : List Byte) (h : romFits bytes = true) :
    s.loadRom bytes = s.setRam (s.ram.writeBytes Config.progBase bytes) := if_pos h

theorem State.loadRom_tooLarge (s : State) (bytes : List Byte) (h : romFits bytes = false)
    (hf : s.fault = none) : s.loadRom bytes = s.raise ⟨.romTooLarge, 0⟩ := by
  simp [State.loadRom, h, hf]

theorem State.loadRom_faulted (s : State) (bytes : List Byte) (h : romFits bytes = false)
    (hf : s.fault ≠ none) : s.loadRom bytes = s := by
  simp [State.loadRom, h, Option.isSome_iff_ne_none, hf]

/-! ### Placing a word -/

theorem State.fetchPoint_le (s : State) : s.fetchPoint.toNat + 2 ≤ Config.ramSize := by
  unfold State.fetchPoint
  split
  · assumption
  · decide

theorem tableWord_toNat (w : Word) : tableWord 16 w.toNat = w := by
  apply BitVec.eq_of_toNat_eq
  have := w.isLt
  simp only [tableWord, BitVec.toNat_ofNat]
  omega

/-- The word that `withFetchWord` places is the word at `PC`. -/
theorem State.withFetchWord_wordAtPc (s : State) (hw : s.ram.wf) (w : Word) :
    (s.withFetchWord 16 w.toNat).wordAtPc = w := by
  have hb : ∀ b, (s.withFetchWord 16 w.toNat).ram.read b =
      if s.fetchPoint.toNat ≤ b then
        ([highByte w, lowByte w][b - s.fetchPoint.toNat]?).getD (s.ram.read b)
      else s.ram.read b := by
    intro b
    change (s.ram.placeWord s.fetchPoint.toNat (tableWord 16 w.toNat)).read b = _
    rw [tableWord_toNat, Memory.placeWord, Memory.read_writeBytes hw _ _ (.inl s.fetchPoint_le)]
  change wordOfBytes (Memory.read _ s.fetchPoint.toNat) (Memory.read _ (s.fetchPoint.toNat + 1)) = w
  rw [hb, hb]
  simp

end Sys2Proof.Machine
end

