-- ==== Sys2Proof/Laws/PerInstr.lean ====
section
/-!
SUPPORT. The per-instruction family `EncodeFitsRow`: the word the encoder makes of an instruction is of that
instruction's own row of the opcode map (30_encoding R100).
-/

namespace Sys2Proof.Laws.EncodeFitsRow

/-- The encoded word matches the instruction's own row. -/
def Statement (i : Instr) : Prop :=
  ∃ r ∈ opcodeTable, r.mnemonic = i.mnemonic ∧ r.fits (encode i) = true

theorem row_fits {i : Instr} (r : OpcodeRow) (hr : r ∈ opcodeTable) (hm : r.mnemonic = i.mnemonic)
    (hw : encode i &&& r.mask = r.pattern) : Statement i :=
  ⟨r, hr, hm, by simp [OpcodeRow.fits, hw]⟩

/-- The bits under a mask decide whether a word fits. -/
theorem masked_eq {w m p : Word} (h : ∀ i < 16, (w.getLsbD i && m.getLsbD i) = p.getLsbD i) : w &&& m = p :=
  BitVec.eq_of_getLsbD_eq fun i hi => by rw [BitVec.getLsbD_and]; exact h i hi

theorem nnn_fits (op : BitVec 4) (nnn : Addr12) (p : Word) (hp : p = encodeNNN op 0) :
    encodeNNN op nnn &&& 0xF000 = p := by
  subst hp
  refine masked_eq fun i hi => ?_
  simp only [encodeNNN_getLsbD]
  interval_cases i <;> simp

theorem xnn_fits (op : BitVec 4) (x : Reg) (nn : Byte) (p : Word) (hp : p = encodeX op 0 0) :
    encodeX op x nn &&& 0xF000 = p := by
  subst hp
  refine masked_eq fun i hi => ?_
  simp only [encodeX_getLsbD]
  interval_cases i <;> simp

theorem x_fits (op : BitVec 4) (x : Reg) (nn : Byte) (p : Word) (hp : p = encodeX op 0 nn) :
    encodeX op x nn &&& 0xF0FF = p := by
  subst hp
  refine masked_eq fun i hi => ?_
  simp only [encodeX_getLsbD]
  interval_cases i <;> simp

theorem xy_fits (op : BitVec 4) (x y : Reg) (n : BitVec 4) (p : Word) (hp : p = encodeXY op 0 0 n) :
    encodeXY op x y n &&& 0xF00F = p := by
  subst hp
  refine masked_eq fun i hi => ?_
  simp only [encodeXY_getLsbD]
  interval_cases i <;> simp

theorem xyn_fits (op : BitVec 4) (x y : Reg) (n : BitVec 4) (p : Word) (hp : p = encodeXY op 0 0 0) :
    encodeXY op x y n &&& 0xF000 = p := by
  subst hp
  refine masked_eq fun i hi => ?_
  simp only [encodeXY_getLsbD]
  interval_cases i <;> simp

theorem clear : Statement (.clear) :=
  row_fits ⟨"CLEAR", 0xFFFF, 0x00E0⟩ (by decide) rfl (by decide)

theorem ret : Statement (.ret) :=
  row_fits ⟨"RETURN", 0xFFFF, 0x00EE⟩ (by decide) rfl (by decide)

theorem jump (nnn : Addr12) : Statement (.jump nnn) :=
  row_fits ⟨"JUMP_nnn", 0xF000, 0x1000⟩ (by decide) rfl (nnn_fits 0x1#4 nnn 0x1000 (by decide))

theorem call (nnn : Addr12) : Statement (.call nnn) :=
  row_fits ⟨"CALL_nnn", 0xF000, 0x2000⟩ (by decide) rfl (nnn_fits 0x2#4 nnn 0x2000 (by decide))

theorem seImm (x : Reg) (nn : Byte) : Statement (.seImm x nn) :=
  row_fits ⟨"SE_Vx_NN", 0xF000, 0x3000⟩ (by decide) rfl (xnn_fits 0x3#4 x nn 0x3000 (by decide))

theorem sneImm (x : Reg) (nn : Byte) : Statement (.sneImm x nn) :=
  row_fits ⟨"SNE_Vx_NN", 0xF000, 0x4000⟩ (by decide) rfl (xnn_fits 0x4#4 x nn 0x4000 (by decide))

theorem seReg (x y : Reg) : Statement (.seReg x y) :=
  row_fits ⟨"SE_Vx_Vy", 0xF000, 0x5000⟩ (by decide) rfl (xyn_fits 0x5#4 x y 0x0#4 0x5000 (by decide))

theorem loadImm (x : Reg) (nn : Byte) : Statement (.loadImm x nn) :=
  row_fits ⟨"LOAD_Vx_NN", 0xF000, 0x6000⟩ (by decide) rfl (xnn_fits 0x6#4 x nn 0x6000 (by decide))

theorem addImm (x : Reg) (nn : Byte) : Statement (.addImm x nn) :=
  row_fits ⟨"ADD_Vx_NN", 0xF000, 0x7000⟩ (by decide) rfl (xnn_fits 0x7#4 x nn 0x7000 (by decide))

theorem loadReg (x y : Reg) : Statement (.loadReg x y) :=
  row_fits ⟨"LOAD_Vx_Vy", 0xF00F, 0x8000⟩ (by decide) rfl (xy_fits 0x8#4 x y 0x0#4 0x8000 (by decide))

theorem orReg (x y : Reg) : Statement (.orReg x y) :=
  row_fits ⟨"OR_Vx_Vy", 0xF00F, 0x8001⟩ (by decide) rfl (xy_fits 0x8#4 x y 0x1#4 0x8001 (by decide))

theorem andReg (x y : Reg) : Statement (.andReg x y) :=
  row_fits ⟨"AND_Vx_Vy", 0xF00F, 0x8002⟩ (by decide) rfl (xy_fits 0x8#4 x y 0x2#4 0x8002 (by decide))

theorem xorReg (x y : Reg) : Statement (.xorReg x y) :=
  row_fits ⟨"XOR_Vx_Vy", 0xF00F, 0x8003⟩ (by decide) rfl (xy_fits 0x8#4 x y 0x3#4 0x8003 (by decide))

theorem addReg (x y : Reg) : Statement (.addReg x y) :=
  row_fits ⟨"ADD_Vx_Vy", 0xF00F, 0x8004⟩ (by decide) rfl (xy_fits 0x8#4 x y 0x4#4 0x8004 (by decide))

theorem sub (x y : Reg) : Statement (.sub x y) :=
  row_fits ⟨"SUB_Vx_Vy", 0xF00F, 0x8005⟩ (by decide) rfl (xy_fits 0x8#4 x y 0x5#4 0x8005 (by decide))

theorem shr (x y : Reg) : Statement (.shr x y) :=
  row_fits ⟨"SHR_Vx_Vy", 0xF00F, 0x8006⟩ (by decide) rfl (xy_fits 0x8#4 x y 0x6#4 0x8006 (by decide))

theorem subn (x y : Reg) : Statement (.subn x y) :=
  row_fits ⟨"SUBN_Vx_Vy", 0xF00F, 0x8007⟩ (by decide) rfl (xy_fits 0x8#4 x y 0x7#4 0x8007 (by decide))

theorem shl (x y : Reg) : Statement (.shl x y) :=
  row_fits ⟨"SHL_Vx_Vy", 0xF00F, 0x800E⟩ (by decide) rfl (xy_fits 0x8#4 x y 0xE#4 0x800E (by decide))

theorem sneReg (x y : Reg) : Statement (.sneReg x y) :=
  row_fits ⟨"SNE_Vx_Vy", 0xF000, 0x9000⟩ (by decide) rfl (xyn_fits 0x9#4 x y 0x0#4 0x9000 (by decide))

theorem loadI (nnn : Addr12) : Statement (.loadI nnn) :=
  row_fits ⟨"LOAD_I_nnn", 0xF000, 0xA000⟩ (by decide) rfl (nnn_fits 0xA#4 nnn 0xA000 (by decide))

theorem jumpV0 (nnn : Addr12) : Statement (.jumpV0 nnn) :=
  row_fits ⟨"JUMP_V0_nnn", 0xF000, 0xB000⟩ (by decide) rfl (nnn_fits 0xB#4 nnn 0xB000 (by decide))

theorem rand (x : Reg) (nn : Byte) : Statement (.rand x nn) :=
  row_fits ⟨"RAND_Vx_NN", 0xF000, 0xC000⟩ (by decide) rfl (xnn_fits 0xC#4 x nn 0xC000 (by decide))

theorem draw (x y : Reg) (n : BitVec 4) : Statement (.draw x y n) :=
  row_fits ⟨"DRAW_Vx_Vy_N", 0xF000, 0xD000⟩ (by decide) rfl (xyn_fits 0xD#4 x y n 0xD000 (by decide))

theorem skp (x : Reg) : Statement (.skp x) :=
  row_fits ⟨"SKP_Vx", 0xF0FF, 0xE09E⟩ (by decide) rfl (x_fits 0xE#4 x 0x9E#8 0xE09E (by decide))

theorem sknp (x : Reg) : Statement (.sknp x) :=
  row_fits ⟨"SKNP_Vx", 0xF0FF, 0xE0A1⟩ (by decide) rfl (x_fits 0xE#4 x 0xA1#8 0xE0A1 (by decide))

theorem loadFromDt (x : Reg) : Statement (.loadFromDt x) :=
  row_fits ⟨"LOAD_Vx_DT", 0xF0FF, 0xF007⟩ (by decide) rfl (x_fits 0xF#4 x 0x07#8 0xF007 (by decide))

theorem loadKey (x : Reg) : Statement (.loadKey x) :=
  row_fits ⟨"LOAD_Vx_K", 0xF0FF, 0xF00A⟩ (by decide) rfl (x_fits 0xF#4 x 0x0A#8 0xF00A (by decide))

theorem loadDt (x : Reg) : Statement (.loadDt x) :=
  row_fits ⟨"LOAD_DT_Vx", 0xF0FF, 0xF015⟩ (by decide) rfl (x_fits 0xF#4 x 0x15#8 0xF015 (by decide))

theorem loadSt (x : Reg) : Statement (.loadSt x) :=
  row_fits ⟨"LOAD_ST_Vx", 0xF0FF, 0xF018⟩ (by decide) rfl (x_fits 0xF#4 x 0x18#8 0xF018 (by decide))

theorem addI (x : Reg) : Statement (.addI x) :=
  row_fits ⟨"ADD_I_Vx", 0xF0FF, 0xF01E⟩ (by decide) rfl (x_fits 0xF#4 x 0x1E#8 0xF01E (by decide))

theorem loadFont (x : Reg) : Statement (.loadFont x) :=
  row_fits ⟨"LOAD_FONT_Vx", 0xF0FF, 0xF029⟩ (by decide) rfl (x_fits 0xF#4 x 0x29#8 0xF029 (by decide))

theorem bcd (x : Reg) : Statement (.bcd x) :=
  row_fits ⟨"BCD_Vx", 0xF0FF, 0xF033⟩ (by decide) rfl (x_fits 0xF#4 x 0x33#8 0xF033 (by decide))

theorem regdump (x : Reg) : Statement (.regdump x) :=
  row_fits ⟨"REGDUMP_Vx", 0xF0FF, 0xF055⟩ (by decide) rfl (x_fits 0xF#4 x 0x55#8 0xF055 (by decide))

theorem regload (x : Reg) : Statement (.regload x) :=
  row_fits ⟨"REGLOAD_Vx", 0xF0FF, 0xF065⟩ (by decide) rfl (x_fits 0xF#4 x 0x65#8 0xF065 (by decide))

end Sys2Proof.Laws.EncodeFitsRow
end

