-- ==== Sys2Proof/Laws/Step.lean ====
section
/-!
SUPPORT. Everything a `Cycle` and a step can do, said once: later proofs cite these instead of unfolding the step.
-/

namespace Sys2Proof.Machine

theorem State.cycle_faulted (s : State) (h : s.fault.isSome) : s.cycle = .next s := if_pos h

theorem State.cycle_waiting (s : State) (hf : s.fault = none) (hw : s.wait = true) :
    s.cycle = .next s.waitPoll := by
  simp [State.cycle, hf, hw]

theorem State.cycle_unfetchable (s : State) (hf : s.fault = none) (hw : s.wait = false)
    (h : ¬ s.pc.toNat + 2 ≤ Config.ramSize) : s.cycle = .next (s.raise (outOfRangeAt s.pc.toNat)) := by
  simp [State.cycle, hf, hw, s.fetch_error h]

theorem State.cycle_fetched (s : State) (hf : s.fault = none) (hw : s.wait = false)
    (h : s.pc.toNat + 2 ≤ Config.ramSize) : s.cycle = s.runWord s.wordAtPc := by
  simp [State.cycle, hf, hw, s.fetch_ok h]

/-- The decoder answers an operation or `DecodeError` with the word itself (30_encoding R92). -/
theorem decode_op_or_error (w : Word) : (∃ i, decode w = .op i) ∨ decode w = .decodeError w := by
  simp only [decode]
  split <;> first
    | exact .inl ⟨_, rfl⟩
    | (unfold decodeOp0; split
       · exact .inl ⟨_, rfl⟩
       · split
         · exact .inl ⟨_, rfl⟩
         · exact .inr rfl)
    | (unfold decodeOp8; split <;> first | exact .inl ⟨_, rfl⟩ | exact .inr rfl)
    | (unfold decodeOpE; split <;> first | exact .inl ⟨_, rfl⟩ | exact .inr rfl)
    | (unfold decodeOpF; split <;> first | exact .inl ⟨_, rfl⟩ | exact .inr rfl)

/-- Everything a `Cycle` can do (40 R120, in the order of 60 R219). -/
theorem State.cycle_cases {s t : State} (h : s.cycle = .next t) :
    (s.fault.isSome ∧ t = s) ∨
    (s.fault = none ∧ s.wait = true ∧ t = s.waitPoll) ∨
    (s.fault = none ∧ s.wait = false ∧ ¬ s.pc.toNat + 2 ≤ Config.ramSize ∧
      t = s.raise (outOfRangeAt s.pc.toNat)) ∨
    (s.fault = none ∧ s.wait = false ∧ s.pc.toNat + 2 ≤ Config.ramSize ∧
      decode s.wordAtPc = .decodeError s.wordAtPc ∧ t = s.raise ⟨.decodeError, s.wordAtPc⟩) ∨
    (s.fault = none ∧ s.wait = false ∧ s.pc.toNat + 2 ≤ Config.ramSize ∧
      ∃ i, decode s.wordAtPc = .op i ∧ exec i s = .next t) := by
  rcases hf : s.fault with _ | f
  · rcases hw : s.wait with _ | _
    · by_cases hp : s.pc.toNat + 2 ≤ Config.ramSize
      · rw [s.cycle_fetched hf hw hp, State.runWord] at h
        rcases decode_op_or_error s.wordAtPc with ⟨i, hi⟩ | he
        · rw [hi] at h
          exact .inr (.inr (.inr (.inr ⟨rfl, rfl, hp, i, hi, h⟩)))
        · rw [he] at h
          exact .inr (.inr (.inr (.inl ⟨rfl, rfl, hp, he, (Host.Outcome.next.inj h).symm⟩)))
      · rw [s.cycle_unfetchable hf hw hp] at h
        exact .inr (.inr (.inl ⟨rfl, rfl, hp, (Host.Outcome.next.inj h).symm⟩))
    · rw [s.cycle_waiting hf hw] at h
      exact .inr (.inl ⟨rfl, rfl, (Host.Outcome.next.inj h).symm⟩)
  · rw [s.cycle_faulted (by simp [hf])] at h
    exact .inl ⟨rfl, (Host.Outcome.next.inj h).symm⟩

/-- Everything a step can do: the driver's oldest event, or a `Cycle` when none is listed. -/
theorem step_cases {s t : State} (h : step s = .next t) :
    ((s.pending = [] ∧ s.cycle = .next t) ∨
      ∃ rest, s.pending = .cycle :: rest ∧ (s.setPending rest).cycle = .next t) ∨
    (∃ rest, s.pending = .tick :: rest ∧ t = (s.setPending rest).tick) ∨
    (∃ k rest, s.pending = .keyRefresh k :: rest ∧ t = (s.setPending rest).keyRefresh k) ∨
    (∃ rest, s.pending = .reset :: rest ∧ t = (s.setPending rest).resetEvent) ∨
    (∃ bytes rest, s.pending = .loadRom bytes :: rest ∧ t = (s.setPending rest).loadRom bytes) := by
  unfold step at h
  split at h
  · exact .inl (.inl ⟨by assumption, h⟩)
  · rename_i e rest hp
    rw [hp]
    cases e with
    | cycle => exact .inl (.inr ⟨rest, rfl, h⟩)
    | tick => exact .inr (.inl ⟨rest, rfl, (Host.Outcome.next.inj h).symm⟩)
    | keyRefresh k => exact .inr (.inr (.inl ⟨k, rest, rfl, (Host.Outcome.next.inj h).symm⟩))
    | reset => exact .inr (.inr (.inr (.inl ⟨rest, rfl, (Host.Outcome.next.inj h).symm⟩)))
    | loadRom b => exact .inr (.inr (.inr (.inr ⟨b, rest, rfl, (Host.Outcome.next.inj h).symm⟩)))

end Sys2Proof.Machine
end

