-- ==== Sys2Proof/Tests/Slice0.lean ====
section
/-!
SUPPORT. The model's own tests: ill-formed terms that the checks refuse, every constructor's decoding from a word written
out from 30_encoding R93 and R100, one step of each instruction on a vector of 95_test_vectors.md (its id in the
comment), and for every obligation with hypotheses a state that meets them all.
-/

open Sys2Proof Sys2Proof.Machine

namespace Sys2Proof.Tests

/-! ### WellFormed: what the checks refuse -/

-- 30_encoding R102, R103, 95 section 2.6: one illegal word of each class, and the nearest legal words
theorem test_legal_refuses_op0 : Word.legal 0x0000 = false ∧ Word.legal 0x00E1 = false ∧ Word.legal 0x0123 = false := by
  decide
theorem test_legal_refuses_op8 : Word.legal 0x8008 = false ∧ Word.legal 0x800F = false ∧ Word.legal 0x8129 = false := by
  decide
theorem test_legal_refuses_opE : Word.legal 0xE000 = false ∧ Word.legal 0xE09F = false ∧ Word.legal 0xE1A2 = false := by
  decide
theorem test_legal_refuses_opF : Word.legal 0xF000 = false ∧ Word.legal 0xF085 = false ∧ Word.legal 0xF1FF = false := by
  decide
theorem test_legal_accepts_nearest :
    Word.legal 0x00E0 = true ∧ Word.legal 0x8007 = true ∧ Word.legal 0xE1A1 = true ∧ Word.legal 0xF11E = true := by
  decide
-- 30_encoding R104: the decoder takes 5347 but no assembler emits it
theorem test_canonical_refuses_low_nibble :
    Word.canonical 0x5347 = false ∧ Word.canonical 0x9341 = false ∧ Word.canonical 0x0000 = false ∧
      Word.canonical 0x5340 = true := by
  decide
-- 95 S8: a 3585-byte image is too large, a 3584-byte one fits
theorem test_romFits_refuses_3585 :
    romFits (List.replicate 3585 0) = false ∧ romFits (List.replicate 3584 0) = true := by
  unfold romFits
  rw [List.length_replicate, List.length_replicate]
  decide
-- the canonical form of memory: addresses rise, lie in RAM, and no entry repeats the reset contents
theorem test_memory_wf_refuses :
    ¬ Memory.wf [(600, 1), (512, 2)] ∧ ¬ Memory.wf [(512, 1), (512, 2)] ∧ ¬ Memory.wf [(4096, 1)] ∧
      ¬ Memory.wf [(600, 0)] ∧ ¬ Memory.wf [(80, 0xF0)] := by
  decide
theorem test_memory_wf_accepts : Memory.wf [(80, 0), (512, 1), (4095, 2)] := by decide
-- an instruction word needs two bytes (30_encoding R90)
theorem test_decodeBytes_refuses_short :
    decodeBytes [] = (.truncated, []) ∧ decodeBytes [0x60] = (.truncated, [0x60]) := by
  decide
-- 95 section 2.6: `DecodeError` carries the word itself
theorem test_decode_refuses_by_word :
    decode 0x00FE = .decodeError 0x00FE ∧ decode 0x8129 = .decodeError 0x8129 ∧
      decode 0xE09F = .decodeError 0xE09F ∧ decode 0xF075 = .decodeError 0xF075 := by
  decide

/-! ### Decode: every constructor, from a word written out in binary (op, x, y or nn, n) -/

theorem test_decode_op0 :
    decode 0b0000000011100000#16 = .op .clear ∧ decode 0b0000000011101110#16 = .op .ret := by
  decide
theorem test_decode_nnn :
    decode 0b0001001000110100#16 = .op (.jump 0x234) ∧ decode 0b0010001000001010#16 = .op (.call 0x20A) ∧
    decode 0b1010001100000000#16 = .op (.loadI 0x300) ∧ decode 0b1011000100100011#16 = .op (.jumpV0 0x123) := by
  decide
theorem test_decode_xnn :
    decode 0b0011000100000011#16 = .op (.seImm 1 3) ∧ decode 0b0100001000001000#16 = .op (.sneImm 2 8) ∧
    decode 0b0110101000101111#16 = .op (.loadImm 10 0x2F) ∧ decode 0b0111000111111111#16 = .op (.addImm 1 0xFF) ∧
    decode 0b1100001100001111#16 = .op (.rand 3 0x0F) := by
  decide
theorem test_decode_xy :
    decode 0b0101001101000000#16 = .op (.seReg 3 4) ∧ decode 0b1001001101000000#16 = .op (.sneReg 3 4) := by
  decide
-- 95 CF21 and R104: the low nibble of 5xy- and 9xy- is not examined
theorem test_decode_low_nibble_ignored :
    decode 0b0101001101000111#16 = .op (.seReg 3 4) ∧ decode 0b1001001101001111#16 = .op (.sneReg 3 4) := by
  decide
theorem test_decode_op8_low :
    decode 0b1000111011110000#16 = .op (.loadReg 14 15) ∧ decode 0b1000001101000001#16 = .op (.orReg 3 4) ∧
    decode 0b1000001101000010#16 = .op (.andReg 3 4) ∧ decode 0b1000001101000011#16 = .op (.xorReg 3 4) ∧
    decode 0b1000001101000100#16 = .op (.addReg 3 4) := by
  decide
theorem test_decode_op8_high :
    decode 0b1000001101000101#16 = .op (.sub 3 4) ∧ decode 0b1000001101000110#16 = .op (.shr 3 4) ∧
    decode 0b1000001101000111#16 = .op (.subn 3 4) ∧ decode 0b1000001101001110#16 = .op (.shl 3 4) := by
  decide
-- 95 FL4: the fields of D5A3
theorem test_decode_draw :
    decode 0b1101010110100011#16 = .op (.draw 5 10 3) ∧ fieldsOf 0xD5A3 = ⟨0xD, 5, 0xA, 3, 0xA3, 0x5A3⟩ := by
  decide
theorem test_decode_opE :
    decode 0b1110001010011110#16 = .op (.skp 2) ∧ decode 0b1110001010100001#16 = .op (.sknp 2) := by
  decide
theorem test_decode_opF_timers :
    decode 0b1111000100000111#16 = .op (.loadFromDt 1) ∧ decode 0b1111001000001010#16 = .op (.loadKey 2) ∧
    decode 0b1111000000010101#16 = .op (.loadDt 0) ∧ decode 0b1111000000011000#16 = .op (.loadSt 0) := by
  decide
theorem test_decode_opF_index :
    decode 0b1111001000011110#16 = .op (.addI 2) ∧ decode 0b1111000000101001#16 = .op (.loadFont 0) ∧
    decode 0b1111000000110011#16 = .op (.bcd 0) ∧ decode 0b1111000101010101#16 = .op (.regdump 1) ∧
    decode 0b1111001001100101#16 = .op (.regload 2) := by
  decide
-- 95 FL5: the first byte in RAM is the high half of the word
theorem test_decodeBytes_big_endian : decodeBytes [0x12, 0x34, 0x56] = (.op (.jump 0x234), [0x56]) := by decide
theorem test_decodeTableWord : decodeTableWord 16 0x8127 = some (.subn 1 2) ∧ decodeTableWord 16 0x8128 = none := by
  decide

/-! ### One step of each instruction -/

/-- What `f` gives of the state after one step that runs the word `w` placed at `PC`. -/
def after {α : Type} (s : State) (w : Nat) (f : State → α) : Option α :=
  match step (s.withFetchWord 16 w) with
  | .next t => some (f t)
  | _ => none

/-- The reset state with some registers set. -/
def regs (l : List (Reg × Byte)) : State := l.foldl (fun s p => s.setReg p.1 p.2) State.reset

/-- The reset state with bytes in RAM, `I` at the first of them, and some registers set. -/
def data (a : Nat) (bytes : List Byte) (l : List (Reg × Byte)) : State :=
  ((regs l).setRam (Memory.writeBytes [] a bytes)).setI (BitVec.ofNat 16 a)

/-- A framebuffer with the listed pixels on. -/
def lit (l : List Nat) : Pixels := l.foldl fbToggle fbClear

-- DS1
theorem test_step_clear :
    after (State.reset.setFb (lit [0, 5, 2047])) 0x00E0 (fun t => (t.fb, t.pc)) = some (fbClear, 0x202) := by
  decide
-- CF3, CF2
theorem test_step_ret :
    after ((State.reset.setPc 0x300).setStack [0x4A2, 0x206]) 0x00EE (fun t => (t.pc, t.stack)) =
      some (0x4A2, [0x206]) := by
  decide
theorem test_step_ret_empty :
    after (State.reset.setPc 0x20C) 0x00EE (fun t => (t.pc, t.faultOut)) = some (0x20C, (3, 0)) := by
  decide
-- CF4
theorem test_step_jump : after (State.reset.setPc 0x20A) 0x1204 (fun t => t.pc) = some 0x204 := by decide
-- CF10, CF9
theorem test_step_call :
    after (State.reset.setPc 0xFFE) 0x2300 (fun t => (t.pc, t.stack)) = some (0x300, [0x1000]) := by
  decide
theorem test_step_call_full :
    after ((State.reset.setPc 0x250).setStack (List.replicate 16 0x202)) 0x2300
      (fun t => (t.pc, t.sp, t.faultOut)) = some (0x250, 16, (2, 0)) := by
  decide
-- CF14, CF15
theorem test_step_seImm : after ((regs [(1, 0)]).setPc 0x208) 0x3100 (fun t => t.pc) = some 0x20C := by decide
theorem test_step_seImm_not : after ((regs [(1, 3)]).setPc 0x208) 0x3100 (fun t => t.pc) = some 0x20A := by decide
-- CF17, CF18
theorem test_step_sneImm : after ((regs [(2, 7)]).setPc 0x300) 0x4208 (fun t => t.pc) = some 0x304 := by decide
theorem test_step_sneImm_not : after ((regs [(2, 7)]).setPc 0x300) 0x4207 (fun t => t.pc) = some 0x302 := by decide
-- CF20, CF21
theorem test_step_seReg :
    after ((regs [(3, 0x2A), (4, 0x2B)]).setPc 0x210) 0x5340 (fun t => t.pc) = some 0x212 := by decide
theorem test_step_seReg_nibble :
    after ((regs [(3, 0x2A), (4, 0x2A)]).setPc 0x210) 0x5347 (fun t => t.pc) = some 0x214 := by decide
-- AL2
theorem test_step_loadImm : after State.reset 0x6F07 (fun t => (t.reg 15, t.pc)) = some (7, 0x202) := by decide
-- AL6, AL7
theorem test_step_addImm :
    after (regs [(2, 0xFF)]) 0x7202 (fun t => (t.reg 2, t.reg 15)) = some (1, 0) := by decide
theorem test_step_addImm_flag : after (regs [(15, 0xFF)]) 0x7F01 (fun t => t.reg 15) = some 0 := by decide
-- AL4
theorem test_step_loadReg :
    after (regs [(15, 1), (14, 9)]) 0x8EF0 (fun t => (t.reg 14, t.reg 15)) = some (1, 1) := by decide
-- AL8, AL9, AL10
theorem test_step_orReg :
    after (regs [(0, 0xF0), (1, 0x0F), (15, 1)]) 0x8011 (fun t => (t.reg 0, t.reg 15)) = some (0xFF, 1) := by decide
theorem test_step_andReg :
    after (regs [(0, 0xF3), (1, 0x3C), (15, 1)]) 0x8012 (fun t => (t.reg 0, t.reg 15)) = some (0x30, 1) := by decide
theorem test_step_xorReg :
    after (regs [(0, 0xF3), (1, 0x3C), (15, 1)]) 0x8013 (fun t => (t.reg 0, t.reg 15)) = some (0xCF, 1) := by decide
-- AL15, AL17
theorem test_step_addReg :
    after (regs [(0, 0xFF), (1, 1)]) 0x8014 (fun t => (t.reg 0, t.reg 15)) = some (0, 1) := by decide
theorem test_step_addReg_flag : after (regs [(15, 0xC8), (1, 0x64)]) 0x8F14 (fun t => t.reg 15) = some 1 := by decide
-- AL21, AL22
theorem test_step_sub :
    after (regs [(0, 3), (1, 10)]) 0x8015 (fun t => (t.reg 0, t.reg 15)) = some (0xF9, 0) := by decide
theorem test_step_sub_equal :
    after (regs [(0, 7), (1, 7)]) 0x8015 (fun t => (t.reg 0, t.reg 15)) = some (0, 1) := by decide
-- AL27, AL31
theorem test_step_shr :
    after (regs [(0, 0xAA), (1, 5)]) 0x8016 (fun t => (t.reg 0, t.reg 15)) = some (2, 1) := by decide
theorem test_step_shr_flag : after (regs [(1, 2)]) 0x8F16 (fun t => t.reg 15) = some 0 := by decide
-- AL34, AL37
theorem test_step_subn :
    after (regs [(0, 3), (1, 10)]) 0x8017 (fun t => (t.reg 0, t.reg 15)) = some (7, 1) := by decide
theorem test_step_subn_flag : after (regs [(15, 3), (1, 5)]) 0x8F17 (fun t => t.reg 15) = some 1 := by decide
-- AL38, AL42
theorem test_step_shl :
    after (regs [(0, 0xAA), (1, 0x81)]) 0x801E (fun t => (t.reg 0, t.reg 15)) = some (2, 1) := by decide
theorem test_step_shl_flag : after (regs [(1, 0x7F)]) 0x8F1E (fun t => t.reg 15) = some 0 := by decide
-- CF23, CF24
theorem test_step_sneReg : after ((regs [(3, 1), (4, 2)]).setPc 0x210) 0x9340 (fun t => t.pc) = some 0x214 := by decide
theorem test_step_sneReg_not :
    after ((regs [(3, 2), (4, 2)]).setPc 0x210) 0x9340 (fun t => t.pc) = some 0x212 := by decide
-- IX2
theorem test_step_loadI : after (State.reset.setI 5) 0xAFFF (fun t => t.i) = some 0x0FFF := by decide
-- CF12, CF13
theorem test_step_jumpV0 : after (regs [(0, 0xFF)]) 0xBFFF (fun t => t.pc) = some 0x10FE := by decide
theorem test_step_jumpV0_x : after (regs [(1, 0x77)]) 0xB123 (fun t => t.pc) = some 0x123 := by decide
-- AL43, for whatever byte the draw gives
theorem test_step_rand :
    after State.reset 0xC30F (fun t => (t.reg 3, t.draws)) = some (Config.randByte 0 &&& 0x0F, 1) := rfl
-- DS6, DS13
theorem test_step_draw_wraps :
    after (data 0x300 [0xC0] [(0, 0x7F), (1, 0x3F)]) 0xD011 (fun t => (t.fb, t.reg 15)) =
      some (lit [1984, 2047], 0) := by
  decide
theorem test_step_draw_right_half :
    after ((data 0x300 [0x0F] []).setFb (lit [0, 1, 2, 3])) 0xD011 (fun t => (t.fb, t.reg 15)) =
      some (lit [0, 1, 2, 3, 4, 5, 6, 7], 0) := by
  decide
-- KT3, KT2
theorem test_step_skp :
    after (((regs [(2, 0x25)]).keyRefresh 0x0020).setPc 0x20E) 0xE29E (fun t => t.pc) = some 0x212 := by decide
theorem test_step_skp_not : after ((regs [(2, 5)]).setPc 0x20E) 0xE29E (fun t => t.pc) = some 0x210 := by decide
-- KT7, KT6
theorem test_step_sknp :
    after (((regs [(2, 5)]).keyRefresh 0xFFDF).setPc 0x20E) 0xE2A1 (fun t => t.pc) = some 0x212 := by decide
theorem test_step_sknp_not :
    after (((regs [(2, 5)]).keyRefresh 0x0020).setPc 0x20E) 0xE2A1 (fun t => t.pc) = some 0x210 := by decide
-- KT8
theorem test_step_loadFromDt : after (State.reset.setDt 0x2A) 0xF107 (fun t => t.reg 1) = some 0x2A := by decide
-- KT13
theorem test_step_loadKey :
    after ((State.reset.keyRefresh 0x0020).setPc 0x20C) 0xF20A (fun t => (t.pc, t.wait, t.wreg, t.kprev)) =
      some (0x20C, true, 2, 0x0020) := by
  decide
-- KT9, KT10
theorem test_step_loadDt : after (regs [(0, 3)]) 0xF015 (fun t => t.dt) = some 3 := by decide
theorem test_step_loadSt :
    after (regs [(0, 3)]) 0xF018 (fun t => (t.st, t.tone, t.tones)) = some (3, false, []) := by decide
-- IX3, IX4
theorem test_step_addI : after ((regs [(2, 5)]).setI 0x0FFE) 0xF21E (fun t => t.i) = some 0x1003 := by decide
theorem test_step_addI_wraps :
    after ((regs [(2, 1), (15, 7)]).setI 0xFFFF) 0xF21E (fun t => (t.i, t.reg 15)) = some (0, 7) := by decide
-- IX7, IX9
theorem test_step_loadFont : after (regs [(0, 0x1A)]) 0xF029 (fun t => t.i) = some 0x0082 := by decide
theorem test_step_loadFont_F : after (regs [(0, 0xFF)]) 0xF029 (fun t => t.i) = some 0x009B := by decide
-- IX10, IX15
theorem test_step_bcd :
    after ((regs [(0, 0xE5)]).setI 0x300) 0xF033 (fun t => t.ram.readBytes 0x300 3) = some [2, 2, 9] := by decide
theorem test_step_bcd_range :
    after ((regs [(0, 0x64)]).setI 0xFFE) 0xF033 (fun t => (t.ram.read 0xFFE, t.pc, t.faultOut)) =
      some (0, 0x200, (5, 0x1000)) := by
  decide
-- IX17, IX20
theorem test_step_regdump :
    after ((regs [(0, 0x11), (1, 0x22), (2, 0x33)]).setI 0x400) 0xF155 (fun t => (t.ram.readBytes 0x400 3, t.i)) =
      some ([0x11, 0x22, 0], 0x400) := by
  decide
theorem test_step_regdump_range :
    after ((regs [(0, 0x11), (1, 0x22)]).setI 0xFFF) 0xF155 (fun t => (t.ram.read 0xFFF, t.faultOut)) =
      some (0, (5, 0x1000)) := by
  decide
-- IX26, IX27
theorem test_step_regload_increments :
    after { data 0x300 [2, 2, 9, 0x77] [] with cfg := { indexIncrementOnBulk := true } } 0xF265
      (fun t => (t.v.toList.take 4, t.i)) = some ([2, 2, 9, 0], 0x303) := by
  decide
theorem test_step_regload_font :
    after (State.reset.setI 0x050) 0xFF65 (fun t => t.v.toList.drop 8) =
      some [0x20, 0x70, 0xF0, 0x10, 0xF0, 0x80, 0xF0, 0xF0] := by
  decide

/-! ### One event -/

/-- What `f` gives of the state after the event `e`. -/
def afterEvent {α : Type} (s : State) (e : Event) (f : State → α) : Option α :=
  match step (s.setPending [e]) with
  | .next t => some (f t)
  | _ => none

-- TK1, TK3, TK5, TK9
theorem test_tick_one : afterEvent (State.reset.setSt 1) .tick (fun t => (t.st, t.tone, t.tones)) =
    some (0, false, [.start, .stop]) := by decide
theorem test_tick_running : afterEvent { State.reset with st := 5, dt := 5, tone := true } .tick
    (fun t => (t.st, t.dt, t.tone, t.tones)) = some (4, 4, true, []) := by decide
theorem test_tick_stale : afterEvent { State.reset with tone := true } .tick (fun t => (t.tone, t.tones)) =
    some (false, [.stop]) := by decide
theorem test_tick_faulted :
    afterEvent { State.reset with st := 1, tone := true, fault := some ⟨.decodeError, 0⟩ } .tick
      (fun t => (t.st, t.tones, t.faultOut)) = some (0, [.stop], (1, 0)) := by decide
-- KT15, KT16, KT17
theorem test_poll_lowest :
    afterEvent { State.reset with pc := 0x20C, wait := true, wreg := 2, key := 0x0220 } .cycle
      (fun t => (t.reg 2, t.pc, t.wait, t.kprev)) = some (5, 0x20E, false, 0x0220) := by decide
theorem test_poll_held_edge :
    afterEvent { State.reset with pc := 0x20C, wait := true, key := 0x0020, kprev := 0x0020 } .cycle
      (fun t => (t.pc, t.wait)) = some (0x20C, true) := by decide
theorem test_poll_held_level :
    afterEvent { State.reset with
      pc := 0x20C, wait := true, wreg := 2, key := 0x0020, kprev := 0x0020, cfg := { keyWaitEdge := false } } .cycle
      (fun t => (t.reg 2, t.pc, t.wait)) = some (5, 0x20E, false) := by decide
-- FL3, CF12's second cycle, FL5
theorem test_cycle_empty : afterEvent State.reset .cycle (fun t => (t.pc, t.faultOut)) = some (0x200, (1, 0)) := by
  decide
theorem test_cycle_past_ram :
    afterEvent (State.reset.setPc 0x10FE) .cycle (fun t => (t.pc, t.faultOut)) = some (0x10FE, (5, 0x10FE)) := by decide
theorem test_loadRom : afterEvent State.reset (.loadRom [0x12, 0x34]) (fun t => (t.wordAtPc, t.ram)) =
    some (0x1234, [(512, 0x12), (513, 0x34)]) := by decide
-- R237: with no fault latched `fault_out` has code 0, whatever the other 16 bits are
theorem test_faultOut_none : State.reset.faultOut = (0, Config.idleFaultInfo) := rfl
-- FL2
theorem test_reset :
    afterEvent { regs [(1, 1)] with fault := some ⟨.decodeError, 0⟩, tone := true, tones := [.start] } .reset id =
      some State.reset := by decide

/-! ### Witnesses: states and operands that meet the hypotheses of each obligation -/

theorem witness_DecodeAgreesWithOpcodeMap :
    (⟨"ADD_Vx_Vy", 0xF00F, 0x8004⟩ : OpcodeRow) ∈ opcodeTable ∧ 0x8014#16 &&& 0xF00F#16 = 0x8004#16 := by decide
theorem witness_DecodedWordIsItsEncoding :
    decode 0x9347#16 = .op (.sneReg 3 4) ∧ decode 0xFF65#16 = .op (.regload 15) := by decide

/-- A running state with the word `w` at the last place a word can be fetched from. -/
def lastWord (w : Word) : State := (State.reset.setPc 4094).setRam (Memory.writeBytes [] 4094 [highByte w, lowByte w])

theorem witness_StepRunsDecodedInstruction :
    CycleNext (lastWord 0x6A2F) [] ∧ Running (lastWord 0x6A2F) ∧ (lastWord 0x6A2F).pc.toNat + 2 ≤ 4096 ∧
      decode (wordOfBytes ((lastWord 0x6A2F).ram.read (lastWord 0x6A2F).pc.toNat)
        ((lastWord 0x6A2F).ram.read ((lastWord 0x6A2F).pc.toNat + 1))) = .op (.loadImm 10 0x2F) :=
  ⟨.inl ⟨rfl, rfl⟩, ⟨rfl, rfl⟩, by decide, by decide⟩
theorem witness_CycleNext_listed : CycleNext (State.reset.setPending [.cycle, .tick]) [.tick] := .inr rfl
theorem witness_FetchReadsWordOrFaults :
    (State.reset.setPc 4094).pc.toNat < 4095 ∧
    (CycleNext (State.reset.setPc 4095) [] ∧ Running (State.reset.setPc 4095) ∧
      4095 ≤ (State.reset.setPc 4095).pc.toNat) ∧
    (CycleNext (State.reset.setPc 0xFFFF) [] ∧ Running (State.reset.setPc 0xFFFF) ∧
      4095 ≤ (State.reset.setPc 0xFFFF).pc.toNat) :=
  ⟨by decide, ⟨.inl ⟨rfl, rfl⟩, ⟨rfl, rfl⟩, by decide⟩, ⟨.inl ⟨rfl, rfl⟩, ⟨rfl, rfl⟩, by decide⟩⟩
theorem witness_IllegalWordFaults :
    CycleNext (lastWord 0x8128) [] ∧ Running (lastWord 0x8128) ∧ (lastWord 0x8128).pc.toNat + 2 ≤ 4096 ∧
      ∀ r ∈ opcodeTable, (lastWord 0x8128).wordAtPc &&& r.mask ≠ r.pattern :=
  ⟨.inl ⟨rfl, rfl⟩, ⟨rfl, rfl⟩, by decide, by decide⟩

/-- A faulted state. -/
def faulted : State := State.reset.raise ⟨.decodeError, 0⟩

theorem witness_FaultStaysUntilReset_cycle : CycleNext faulted [] ∧ faulted.fault ≠ none :=
  ⟨.inl ⟨rfl, rfl⟩, by decide⟩
theorem witness_FaultStaysUntilReset_event :
    faulted.fault = some ⟨.decodeError, 0⟩ ∧ ¬ ResetNext (faulted.setPending [.loadRom [1]]) ∧
      ∃ t, step (faulted.setPending [.loadRom [1]]) = .next t :=
  ⟨rfl, (by rintro ⟨_, h⟩; cases h), _, rfl⟩
theorem witness_FaultsArePrecise :
    CycleNext State.reset [] ∧ Running State.reset ∧ (∃ t, step State.reset = .next t ∧ t.fault ≠ none) ∧
    CycleNext (lastWord 0x6A2F) [] ∧ Running (lastWord 0x6A2F) ∧
      ∃ t, step (lastWord 0x6A2F) = .next t ∧ t.fault = none :=
  ⟨.inl ⟨rfl, rfl⟩, ⟨rfl, rfl⟩, ⟨_, rfl, by decide⟩, .inl ⟨rfl, rfl⟩, ⟨rfl, rfl⟩, ⟨_, rfl, by decide⟩⟩
theorem witness_PlacedWordIsRunNext : State.reset.ram.wf ∧ decode 0x8127#16 = .op (.subn 1 2) := by decide

/-- A waiting state with the keys `k` down and none down at the last sample. -/
def waiting (k : Word) : State := { State.reset with wait := true, wreg := 2, key := k }

theorem witness_WaitPollDeliversLowestKey :
    CycleNext (waiting 0) [] ∧ (waiting 0).fault = none ∧ (waiting 0).wait = true ∧ (waiting 0).candidates = 0 :=
  ⟨.inl ⟨rfl, rfl⟩, rfl, rfl, by decide⟩
theorem witness_WaitPollDeliversLowestKey_first :
    CycleNext (waiting 0x8001) [] ∧ (waiting 0x8001).fault = none ∧ (waiting 0x8001).wait = true ∧
      (waiting 0x8001).candidates.getLsbD 0 = true ∧ ∀ j < 0, (waiting 0x8001).candidates.getLsbD j = false :=
  ⟨.inl ⟨rfl, rfl⟩, rfl, rfl, by decide, by decide⟩
theorem witness_WaitPollDeliversLowestKey_last :
    CycleNext (waiting 0x8000) [] ∧ (waiting 0x8000).fault = none ∧ (waiting 0x8000).wait = true ∧
      (waiting 0x8000).candidates.getLsbD 15 = true ∧ ∀ j < 15, (waiting 0x8000).candidates.getLsbD j = false :=
  ⟨.inl ⟨rfl, rfl⟩, rfl, rfl, by decide, by decide⟩
theorem witness_EdgePollsOfSameKeysChangeNothing :
    (waiting 0).pending = [] ∧ (waiting 0).fault = none ∧ (waiting 0).wait = true ∧
      (waiting 0).cfg.keyWaitEdge = true ∧ ∃ t, step (waiting 0) = .next t ∧ t.wait = true :=
  ⟨rfl, rfl, rfl, rfl, _, rfl, by decide⟩
theorem witness_TickCountsTimersAndDrivesTone :
    (State.reset.setPending [.tick]).pending = .tick :: [] ∧
      ((State.reset.setSt 255).setPending [.tick]).pending = .tick :: [] := ⟨rfl, rfl⟩
theorem witness_KeyRefreshLoadsLatch :
    (State.reset.setPending [.keyRefresh 0xFFFF]).pending = .keyRefresh 0xFFFF :: [] := rfl
theorem witness_ResetRestoresEveryElement : (faulted.setPending [.reset]).pending = .reset :: [] := rfl
theorem witness_LoadRomCopiesOrFaults :
    State.reset.ram.wf ∧ (State.reset.setPending [.loadRom (List.replicate 3584 7)]).pending =
      .loadRom (List.replicate 3584 7) :: [] ∧ (List.replicate 3584 (7 : Byte)).length ≤ 3584 :=
  ⟨by decide, rfl, by rw [List.length_replicate]⟩
theorem witness_LoadRomCopiesOrFaults_tooLarge :
    State.reset.ram.wf ∧ (State.reset.setPending [.loadRom (List.replicate 3585 7)]).pending =
      .loadRom (List.replicate 3585 7) :: [] ∧ 3584 < (List.replicate 3585 (7 : Byte)).length ∧
      (State.reset.setPending [.loadRom (List.replicate 3585 7)]).fault = none :=
  ⟨by decide, rfl, by rw [List.length_replicate]; decide, rfl⟩
theorem witness_CycleAfterResetFaults :
    (faulted.setPending [.reset, .cycle]).pending = .reset :: .cycle :: [] := rfl
theorem witness_LaunchLoadsProgramAtEntryPoint :
    (List.replicate 3584 (7 : Byte)).length ≤ 3584 ∧
      (faulted.setPending [.reset, .loadRom (List.replicate 3584 7)]).pending =
        .reset :: .loadRom (List.replicate 3584 7) :: [] := ⟨by rw [List.length_replicate], rfl⟩

/-! The invariants: a state away from reset that meets each, with a step from it. -/

theorem witness_StepKeepsMemoryCanonical :
    (lastWord 0x6A2F).ram.wf ∧ ∃ t, step (lastWord 0x6A2F) = .next t := ⟨by decide, _, rfl⟩

/-- The furthest control state the bounds admit: a full stack of the greatest return addresses, `PC` at 4350. -/
def farControl : State := (State.reset.setPc 4350).setStack (List.replicate 16 4096)

theorem witness_StepKeepsControlBounds : ControlInv farControl ∧ ∃ t, step farControl = .next t :=
  ⟨⟨by decide, fun a h => by rw [List.eq_of_mem_replicate h]; decide, by decide, by decide⟩, _, rfl⟩
theorem witness_StepKeepsControlBounds_waiting :
    ControlInv ((waiting 1).setPc 4094) ∧ ∃ t, step ((waiting 1).setPc 4094) = .next t :=
  ⟨⟨by decide, fun a h => absurd h List.not_mem_nil, by decide, by decide⟩, _, rfl⟩

/-- A state in the middle of a tone, at its next tick. -/
def sounding : State :=
  { State.reset with st := 1, tone := true, tones := [.start, .stop, .start], pending := [.tick] }

theorem witness_StepKeepsTonePulsesAlternating : ToneInv sounding ∧ ∃ t, step sounding = .next t := ⟨rfl, _, rfl⟩
theorem witness_StepKeepsFaultsProper :
    FaultInv faulted ∧ ∃ t, step faulted = .next t :=
  ⟨fun f h => by cases h; exact (by decide : Word.legal 0 = false), _, rfl⟩
theorem witness_InstructionsWriteOnlyTheirRow :
    State.reset.ram.wf ∧ (∃ t, exec (.bcd 0) State.reset = .next t) ∧
      ∃ t, exec (.bcd 0) (State.reset.setI 4094) = .next t := ⟨by decide, ⟨_, rfl⟩, _, rfl⟩
-- ADD V0,V1 reads V0, V1 and PC: the second state differs in V2, I, DT and RAM
theorem witness_InstructionsReadOnlyTheirRow :
    (regs [(0, 9)]).ram.wf ∧ (((data 600 [1] [(0, 9), (2, 4)]).setDt 3)).ram.wf ∧
      (∀ p, Reads (.addReg 0 1) (regs [(0, 9)]) p →
        p.same (regs [(0, 9)]) ((data 600 [1] [(0, 9), (2, 4)]).setDt 3)) ∧
      (∃ t, exec (.addReg 0 1) (regs [(0, 9)]) = .next t) ∧
      ∃ t, exec (.addReg 0 1) ((data 600 [1] [(0, 9), (2, 4)]).setDt 3) = .next t :=
  ⟨by decide, by decide, fun p h => by rcases h with rfl | rfl | rfl <;> rfl, ⟨_, rfl⟩, _, rfl⟩

/-- The reset state with the word `w` at `PC` and the registers `l`. -/
def ready (w : Nat) (l : List (Reg × Byte)) : State := (regs l).withFetchWord 16 w

theorem ready_not_resetNext (w : Nat) (l : List (Reg × Byte)) : ¬ ResetNext (ready w l) :=
  fun ⟨_, h⟩ => nomatch h

theorem witness_OnlyNamed_fb :
    ((ready 0xD015 []).setI 80).ram.wf ∧
      ∃ t, step ((ready 0xD015 []).setI 80) = .next t ∧ t.fb ≠ ((ready 0xD015 []).setI 80).fb :=
  ⟨by decide, _, rfl, by decide⟩
theorem witness_OnlyNamed_key_tone :
    (∃ t, step (State.reset.setPending [.keyRefresh 5]) = .next t ∧ t.key ≠ State.reset.key) ∧
      ∃ t, step ((State.reset.setSt 9).setPending [.tick]) = .next t ∧ t.tone ≠ State.reset.tone :=
  ⟨⟨_, rfl, by decide⟩, _, rfl, by decide⟩
theorem witness_OnlyNamed_timers :
    (∃ t, step (ready 0xF015 [(0, 3)]) = .next t ∧ t.dt ≠ (ready 0xF015 [(0, 3)]).dt) ∧
      ∃ t, step (ready 0xF018 [(0, 3)]) = .next t ∧ t.st ≠ (ready 0xF018 [(0, 3)]).st :=
  ⟨⟨_, rfl, by decide⟩, _, rfl, by decide⟩
theorem witness_OnlyNamed_stack_ram :
    (∃ t, step (ready 0x2300 []) = .next t ∧ t.stack ≠ (ready 0x2300 []).stack) ∧
      (ready 0xF055 [(0, 3)]).ram.wf ∧
      ∃ t, step (ready 0xF055 [(0, 3)]) = .next t ∧ t.ram.read 0 ≠ (ready 0xF055 [(0, 3)]).ram.read 0 :=
  ⟨⟨_, rfl, by decide⟩, by decide, _, rfl, by decide⟩

/-! Instructions: each clause at a boundary value. -/

/-- The reset state with `n` return addresses on the stack. -/
def calls (n : Nat) : State := State.reset.setStack (List.replicate n 0x202)

theorem witness_ReturnPopsReturnAddress :
    (0 < (calls 1).sp ∧ (calls 1).stackCell ((calls 1).sp - 1) = some 0x202) ∧
      (0 < (calls 16).sp ∧ (calls 16).stackCell ((calls 16).sp - 1) = some 0x202) ∧ (calls 0).sp = 0 := by decide
theorem witness_CallPushesReturnAddress : (calls 15).sp < 16 ∧ 16 ≤ (calls 16).sp := by decide
theorem witness_ReturnUndoesCall : (calls 0).sp < 16 ∧ (calls 15).sp < 16 := by decide
-- the inner hypothesis of the flag-setting instructions, at the last register that is not the flag
theorem witness_result_survives : (14#4 : Reg) ≠ 15#4 := by decide
theorem witness_BcdStoresDecimalDigits :
    State.reset.ram.wf ∧ (State.reset.setI 4093).i.toNat + 3 ≤ 4096 ∧ 4094 ≤ (State.reset.setI 4094).i.toNat ∧
      4094 ≤ (State.reset.setI 0xFFFF).i.toNat := by decide
theorem witness_Regdump_Regload_ranges :
    State.reset.ram.wf ∧ (State.reset.setI 4080).i.toNat + (15#4 : Reg).toNat + 1 ≤ 4096 ∧
      4096 ≤ (State.reset.setI 4081).i.toNat + (15#4 : Reg).toNat ∧
      (State.reset.setI 4095).i.toNat + (0#4 : Reg).toNat + 1 ≤ 4096 ∧
      4096 ≤ (State.reset.setI 4096).i.toNat + (0#4 : Reg).toNat := by decide
theorem witness_RegloadUndoesRegdump :
    State.reset.ram.wf ∧ (State.reset.setI 4080).i.toNat + (15#4 : Reg).toNat + 1 ≤ 4096 := by decide
-- `REGDUMP VF` at 512 stores V2 and V3 where the next instruction stands, at 514
theorem witness_StoredInstructionIsFetchedNext :
    (State.reset.setI 512).ram.wf ∧ (State.reset.setI 512).i.toNat + (15#4 : Reg).toNat + 1 ≤ 4096 ∧
      (2#4 : Reg).toNat + 1 ≤ (15#4 : Reg).toNat ∧
      (State.reset.setI 512).pc.toNat + 2 = (State.reset.setI 512).i.toNat + (2#4 : Reg).toNat ∧
      ∃ t, exec (.regdump 15) (State.reset.setI 512) = .next t :=
  ⟨by decide, by decide, by decide, by decide, _, rfl⟩
theorem witness_CheckedWriteReadsBack : State.reset.ram.wf ∧ 4095 < 4096 ∧ 4096 ≤ 4096 := by decide
theorem witness_DrawTogglesSpritePixels :
    ((0#4 : BitVec 4).toNat = 0 ∧ (State.reset.setI 0xFFFF).i.toNat = 65535) ∧
      (State.reset.setI 4081).i.toNat + (15#4 : BitVec 4).toNat ≤ 4096 ∧
      (15#4 : BitVec 4).toNat ≠ 0 ∧ 4096 < (State.reset.setI 4082).i.toNat + (15#4 : BitVec 4).toNat := by decide
theorem witness_DrawingTwiceRestoresDisplay :
    (0#4 : Reg) ≠ 15#4 ∧ (14#4 : Reg) ≠ 15#4 ∧
      (State.reset.setI 4081).i.toNat + (15#4 : BitVec 4).toNat ≤ 4096 := by decide

end Sys2Proof.Tests
end

section
/-!
PROOFS. The step when the driver's next event is a `Cycle`, and the instruction fetch (20_memory R67).
-/

namespace Sys2Proof.Machine

/-- With a `Cycle` next, a step is that cycle on the state whose pending events are those after it (00_scope R3, R4;
log 1), whether the event is listed or is the one raised when none is. -/
theorem CycleNext.step_eq {s : State} {rest : List Event} (h : CycleNext s rest) :
    step s = (s.setPending rest).cycle := by
  unfold step
  obtain ⟨hp, rfl⟩ | hp := h
  · have hs : s.setPending [] = s := by rw [← hp]; rfl
    rw [hp, hs]
  · rw [hp]; rfl

/-- The word at `PC` has the byte at the lower address in its high half (20_memory R69). -/
theorem State.wordAtPc_toNat (s : State) :
    s.wordAtPc.toNat = (s.ram.read s.pc.toNat).toNat * 256 + (s.ram.read (s.pc.toNat + 1)).toNat :=
  wordOfBytes_toNat _ _

/-- A running machine whose next event is a `Cycle` and whose `PC` leaves no room for a word latches the fetch's fault
and changes nothing else, `PC` included (20_memory R67, 60 R212). -/
theorem CycleNext.step_unfetchable {s : State} {rest : List Event} (hc : CycleNext s rest) (hr : Running s)
    (h : ¬ s.pc.toNat + 2 ≤ Config.ramSize) :
    step s = .next ((s.setPending rest).raise (outOfRangeAt s.pc.toNat)) := by
  obtain ⟨hfault, hwait⟩ := hr
  rw [hc.step_eq]
  exact (s.setPending rest).cycle_unfetchable hfault hwait h

/-- Settles O8: below 4095 the range check of a fetch passes and the word is big-endian; from 4095 up it fails before
anything is written, so the cycle only latches the fault. -/
theorem fetchReadsWordOrFaults : Obligations.FetchReadsWordOrFaults := by
  unfold Obligations.FetchReadsWordOrFaults
  constructor
  · intro s hpc
    have hin : s.pc.toNat + 2 ≤ 4096 := by omega
    exact ⟨s.wordAtPc, s.fetch_ok hin, s.wordAtPc_toNat⟩
  · intro s rest hc hr hpc
    have hout : ¬ s.pc.toNat + 2 ≤ 4096 := by omega
    exact ⟨s.fetch_error hout, hc.step_unfetchable hr hout⟩

end Sys2Proof.Machine
end

section
/-!
PROOFS. Frames of state updates, and the instructions that move `PC` to an address they name or pop (40 R122, R123,
R125).
-/

namespace Sys2Proof.Machine

/-! ### Frames -/

theorem Part.same.trans {p : Part} {s t u : State} (hst : p.same s t) (htu : p.same t u) : p.same s u := by
  cases p <;> exact Eq.trans htu hst

theorem ChangesOnly.trans {w : Part → Prop} {s t u : State} (hst : ChangesOnly w s t) (htu : ChangesOnly w t u) :
    ChangesOnly w s u :=
  fun p hp => (hst p hp).trans (htu p hp)

theorem ChangesOnly.mono {w w' : Part → Prop} {s t : State} (h : ChangesOnly w s t) (hw : ∀ p, w p → w' p) :
    ChangesOnly w' s t :=
  fun p hp => h p (mt (hw p) hp)

theorem State.changesOnly_setPc (s : State) (a : Word) : ChangesOnly (fun p => p = .pc) s (s.setPc a) := by
  intro p hp
  cases p with
  | pc => exact absurd rfl hp
  | _ => rfl

theorem State.changesOnly_setStack (s : State) (l : List Word) :
    ChangesOnly (fun p => p = .stack) s (s.setStack l) := by
  intro p hp
  cases p with
  | stack => exact absurd rfl hp
  | _ => rfl

/-! ### Stack cells, counted from the oldest -/

@[simp] theorem State.setStack_sp (s : State) (l : List Word) : (s.setStack l).sp = l.length := rfl

@[simp] theorem State.setPc_stackCell (s : State) (a : Word) (k : Nat) :
    (s.setPc a).stackCell k = s.stackCell k := rfl

theorem State.sp_of_stack_cons {s : State} {a : Word} {l : List Word} (h : s.stack = a :: l) :
    s.sp = l.length + 1 := by
  simp [State.sp, h]

/-- `STACK[SP-1]` is the head of the list, the most recent entry (10_state R28; log 19). -/
theorem State.stackCell_top {s : State} {a : Word} {l : List Word} (h : s.stack = a :: l) :
    s.stackCell (s.sp - 1) = some a := by
  simp [State.stackCell, State.sp, h]

/-- Dropping the most recent entry leaves the older cells at their numbers. -/
theorem State.stackCell_setStack_tail {s : State} {a : Word} {l : List Word} (h : s.stack = a :: l) {k : Nat}
    (hk : k < l.length) : (s.setStack l).stackCell k = s.stackCell k := by
  have hk' : k < l.reverse.length := by simpa using hk
  simp only [State.stackCell, State.setStack_stack, h, List.reverse_cons]
  exact (List.getElem?_append_left hk').symm

/-! ### RETURN -/

/-- With `a` the most recent return address, `RETURN` drops it and goes there (40 R122). -/
theorem exec_ret_of_stack_cons {s : State} {a : Word} {l : List Word} (h : s.stack = a :: l) :
    exec .ret s = .next ((s.setStack l).setPc a) := by
  change execRet s = _
  simp [execRet, s.pop_cons h]

/-- On an empty stack `RETURN` only latches its fault (40 R122, 60 R212). -/
theorem exec_ret_of_stack_nil {s : State} (h : s.stack = []) :
    exec .ret s = .next (s.raise ⟨.stackUnderflow, 0⟩) := by
  change execRet s = _
  simp [execRet, s.pop_nil h]

/-- Settles O30: with an entry on the stack, the head of the list is both the cell `STACK[SP-1]` and the address popped;
with none, the pop fails before anything is written. -/
theorem returnPopsReturnAddress : Obligations.ReturnPopsReturnAddress := by
  intro s
  constructor
  · intro a hpos htop
    obtain ⟨b, l, hs⟩ := List.exists_cons_of_length_pos hpos
    obtain rfl : b = a := Option.some.inj ((State.stackCell_top hs).symm.trans htop)
    have hframe : ChangesOnly (fun p => p = .pc ∨ p = .stack) s ((s.setStack l).setPc b) :=
      ((s.changesOnly_setStack l).mono fun _ => .inr).trans (((s.setStack l).changesOnly_setPc b).mono fun _ => .inl)
    exact ⟨_, exec_ret_of_stack_cons hs, rfl, (State.sp_of_stack_cons hs).symm,
      fun _ hk => State.stackCell_setStack_tail hs hk, hframe⟩
  · intro hzero
    exact exec_ret_of_stack_nil (List.eq_nil_of_length_eq_zero hzero)

/-! ### Jumps -/

theorem exec_jump (nnn : Addr12) (s : State) : exec (.jump nnn) s = .next (s.setPc (zext16 nnn)) := rfl

theorem exec_jumpV0 (nnn : Addr12) (s : State) :
    exec (.jumpV0 nnn) s = .next (s.setPc (BitVec.ofNat 16 ((s.reg 0).toNat + nnn.toNat))) := rfl

/-- A byte and a 12-bit address sum to at most 4350, so a 16-bit `PC` holds the integer sum (40 R125). -/
theorem toNat_ofNat_byte_add_addr (b : Byte) (nnn : Addr12) :
    (BitVec.ofNat 16 (b.toNat + nnn.toNat)).toNat = b.toNat + nnn.toNat := by
  have hb := b.isLt
  have hn := nnn.isLt
  rw [BitVec.toNat_ofNat]
  omega

/-- Settles O33: each jump is one write of `PC`, and both targets fit its 16 bits. -/
theorem jumpsSetPc : Obligations.JumpsSetPc := by
  intro nnn s
  constructor
  · exact ⟨_, exec_jump nnn s, zext16_toNat nnn, s.changesOnly_setPc _⟩
  · exact ⟨_, exec_jumpV0 nnn s, toNat_ofNat_byte_add_addr (s.reg 0) nnn, s.changesOnly_setPc _⟩

end Sys2Proof.Machine
end

section
/-!
PROOFS. Register load, arithmetic and logic (41 R141 to R152): what one register write and one result-and-flag write do,
the results and flags as numbers, and the instructions that make these writes.
-/

namespace Sys2Proof.Machine

/-! ### Frames -/

theorem State.changesOnly_setReg (s : State) (x : Reg) (b : Byte) :
    ChangesOnly (fun p => p = .v x) s (s.setReg x b) := by
  intro p hp
  cases p with
  | v r => exact (s.setReg_reg x r b).trans (if_neg fun hx => hp (congrArg Part.v hx.symm))
  | _ => rfl

theorem State.changesOnly_advance (s : State) : ChangesOnly (fun p => p = .pc) s s.advance :=
  s.changesOnly_setPc _

theorem State.changesOnly_setReg_advance (s : State) (x : Reg) (b : Byte) :
    ChangesOnly (fun p => p = .v x ∨ p = .pc) s (s.setReg x b).advance :=
  ((s.changesOnly_setReg x b).mono fun _ => .inl).trans ((s.setReg x b).changesOnly_advance.mono fun _ => .inr)

theorem State.changesOnly_setResultFlag_advance (s : State) (x : Reg) (a f : Byte) :
    ChangesOnly (fun p => p = .v x ∨ p = .v flagReg ∨ p = .pc) s (s.setResultFlag x a f).advance :=
  ((s.changesOnly_setReg x a).mono fun _ => .inl).trans
    (((s.setReg x a).changesOnly_setReg_advance flagReg f).mono fun _ => .inr)

/-! ### What an instruction that makes these writes does -/

/-- An instruction that writes `b` to `V[x]` and moves on: the register holds `b`, and nothing but it and `PC`
changes. -/
theorem exec_setReg_advance {i : Instr} {s : State} {x : Reg} {b : Byte}
    (h : exec i s = .next (s.setReg x b).advance) :
    ∃ t, exec i s = .next t ∧ t.reg x = b ∧ t.pc = s.pc + 2 ∧ ChangesOnly (fun p => p = .v x ∨ p = .pc) s t :=
  ⟨_, h, by simp, rfl, s.changesOnly_setReg_advance x b⟩

/-- An instruction that writes a result to `V[x]`, then a flag to `VF`, and moves on: `VF` holds the flag, `V[x]` the
result unless it is `VF` itself, and nothing but the two and `PC` changes (41 R144). -/
theorem exec_setResultFlag_advance {i : Instr} {s : State} {x : Reg} {a f : Byte}
    (h : exec i s = .next (s.setResultFlag x a f).advance) :
    ∃ t, exec i s = .next t ∧ (x ≠ flagReg → t.reg x = a) ∧ t.reg flagReg = f ∧ t.pc = s.pc + 2 ∧
      ChangesOnly (fun p => p = .v x ∨ p = .v flagReg ∨ p = .pc) s t :=
  ⟨_, h, fun hx => by simp [hx.symm], by simp, rfl, s.changesOnly_setResultFlag_advance x a f⟩

/-! ### Results and flags as numbers -/

theorem flagOf_decide_toNat (p : Prop) [Decidable p] : (flagOf (decide p)).toNat = if p then 1 else 0 := by
  by_cases hp : p <;> simp [flagOf, hp]

theorem carryFlag_toNat (a b : Byte) : (carryFlag a b).toNat = if 255 < a.toNat + b.toNat then 1 else 0 :=
  flagOf_decide_toNat _

theorem notBorrowFlag_toNat (a b : Byte) : (notBorrowFlag a b).toNat = if b.toNat ≤ a.toNat then 1 else 0 :=
  flagOf_decide_toNat _

/-- The flag made of bit `k` is that bit of the number. -/
theorem flagOf_getLsbD_toNat (b : Byte) (k : Nat) : (flagOf (b.getLsbD k)).toNat = b.toNat / 2 ^ k % 2 := by
  rw [BitVec.getLsbD, Nat.testBit_eq_decide_div_mod_eq, flagOf_decide_toNat]
  split <;> omega

theorem shiftRight_toNat (b : Byte) : (shiftRight b).toNat = b.toNat / 2 := by
  simp [shiftRight, Nat.shiftRight_eq_div_pow]

theorem shiftRightFlag_toNat (b : Byte) : (shiftRightFlag b).toNat = b.toNat % 2 := by
  have hbit : (shiftRightFlag b).toNat = b.toNat / 1 % 2 := flagOf_getLsbD_toNat b 0
  rwa [Nat.div_one] at hbit

theorem shiftLeft_toNat (b : Byte) : (shiftLeft b).toNat = b.toNat * 2 % 256 := by
  simp [shiftLeft, Nat.shiftLeft_eq]

/-- Bit 7 is the highest, so it is all that is left above 128. -/
theorem shiftLeftFlag_toNat (b : Byte) : (shiftLeftFlag b).toNat = b.toNat / 128 := by
  have hbit : (shiftLeftFlag b).toNat = b.toNat / 128 % 2 := flagOf_getLsbD_toNat b 7
  have hlt := b.isLt
  omega

/-! ### Instructions with a flag -/

theorem exec_addReg (x y : Reg) (s : State) : exec (.addReg x y) s =
    .next (s.setResultFlag x (addMod (s.reg x) (s.reg y)) (carryFlag (s.reg x) (s.reg y))).advance := rfl

theorem exec_sub (x y : Reg) (s : State) : exec (.sub x y) s =
    .next (s.setResultFlag x (subMod (s.reg x) (s.reg y)) (notBorrowFlag (s.reg x) (s.reg y))).advance := rfl

theorem exec_subn (x y : Reg) (s : State) : exec (.subn x y) s =
    .next (s.setResultFlag x (subMod (s.reg y) (s.reg x)) (notBorrowFlag (s.reg y) (s.reg x))).advance := rfl

theorem exec_shr (x y : Reg) (s : State) : exec (.shr x y) s =
    .next (s.setResultFlag x (shiftRight (s.reg y)) (shiftRightFlag (s.reg y))).advance := rfl

theorem exec_shl (x y : Reg) (s : State) : exec (.shl x y) s =
    .next (s.setResultFlag x (shiftLeft (s.reg y)) (shiftLeftFlag (s.reg y))).advance := rfl

/-- Settles O39: the result is the sum modulo 256 and the flag its carry, both of the operands as they were. -/
theorem addSetsCarry : Obligations.AddSetsCarry := by
  intro x y s
  obtain ⟨t, hexec, hresult, hflag, hpc, hframe⟩ := exec_setResultFlag_advance (exec_addReg x y s)
  exact ⟨t, hexec, fun hx => hresult hx ▸ addMod_toNat _ _, hflag ▸ carryFlag_toNat _ _, hpc, hframe⟩

/-- Settles O40: `SUB` and `SUBN` differ in the order of the operands, in the difference and in the flag alike. -/
theorem subtractSetsNotBorrow : Obligations.SubtractSetsNotBorrow := by
  intro x y s
  constructor
  · obtain ⟨t, hexec, hresult, hflag, hpc, hframe⟩ := exec_setResultFlag_advance (exec_sub x y s)
    exact ⟨t, hexec, fun hx => hresult hx ▸ subMod_toInt _ _, hflag ▸ notBorrowFlag_toNat _ _, hpc, hframe⟩
  · obtain ⟨t, hexec, hresult, hflag, hpc, hframe⟩ := exec_setResultFlag_advance (exec_subn x y s)
    exact ⟨t, hexec, fun hx => hresult hx ▸ subMod_toInt _ _, hflag ▸ notBorrowFlag_toNat _ _, hpc, hframe⟩

/-- Settles O41: both shifts take result and flag from `V[y]` alone; the bit shifted out is bit 0 to the right and
bit 7 to the left. -/
theorem shiftsMoveVyAndSetShiftedOutBit : Obligations.ShiftsMoveVyAndSetShiftedOutBit := by
  intro x y s
  constructor
  · obtain ⟨t, hexec, hresult, hflag, hpc, hframe⟩ := exec_setResultFlag_advance (exec_shr x y s)
    exact ⟨t, hexec, fun hx => hresult hx ▸ shiftRight_toNat _, hflag ▸ shiftRightFlag_toNat _, hpc, hframe⟩
  · obtain ⟨t, hexec, hresult, hflag, hpc, hframe⟩ := exec_setResultFlag_advance (exec_shl x y s)
    exact ⟨t, hexec, fun hx => hresult hx ▸ shiftLeft_toNat _, hflag ▸ shiftLeftFlag_toNat _, hpc, hframe⟩

/-! ### Instructions without a flag -/

theorem exec_loadImm (x : Reg) (nn : Byte) (s : State) :
    exec (.loadImm x nn) s = .next (s.setReg x nn).advance := rfl

theorem exec_loadReg (x y : Reg) (s : State) :
    exec (.loadReg x y) s = .next (s.setReg x (s.reg y)).advance := rfl

theorem exec_addImm (x : Reg) (nn : Byte) (s : State) :
    exec (.addImm x nn) s = .next (s.setReg x (addMod (s.reg x) nn)).advance := rfl

theorem exec_orReg (x y : Reg) (s : State) :
    exec (.orReg x y) s = .next (s.setReg x (s.reg x ||| s.reg y)).advance := rfl

theorem exec_andReg (x y : Reg) (s : State) :
    exec (.andReg x y) s = .next (s.setReg x (s.reg x &&& s.reg y)).advance := rfl

theorem exec_xorReg (x y : Reg) (s : State) :
    exec (.xorReg x y) s = .next (s.setReg x (s.reg x ^^^ s.reg y)).advance := rfl

/-- Settles O36: both loads are one register write, of the immediate or of `V[y]`. -/
theorem registerLoadsAssign : Obligations.RegisterLoadsAssign := by
  intro x y nn s
  exact ⟨exec_setReg_advance (exec_loadImm x nn s), exec_setReg_advance (exec_loadReg x y s)⟩

/-- Settles O37: the one register written is `V[x]`, so `VF` keeps its value unless it is the destination. -/
theorem addImmediateIsModular : Obligations.AddImmediateIsModular := by
  intro x nn s
  obtain ⟨t, hexec, hreg, hpc, hframe⟩ := exec_setReg_advance (exec_addImm x nn s)
  exact ⟨t, hexec, hreg ▸ addMod_toNat _ _, hpc, hframe⟩

/-- Settles O38: each of the three is one register write, of the bit vector operation on the two operands. -/
theorem bitwiseOperationsActPerBit : Obligations.BitwiseOperationsActPerBit := by
  intro x y s
  refine ⟨?_, ?_, ?_⟩
  · obtain ⟨t, hexec, hreg, hpc, hframe⟩ := exec_setReg_advance (exec_orReg x y s)
    exact ⟨t, hexec, fun _ _ => hreg ▸ BitVec.getLsbD_or, hpc, hframe⟩
  · obtain ⟨t, hexec, hreg, hpc, hframe⟩ := exec_setReg_advance (exec_andReg x y s)
    exact ⟨t, hexec, fun _ _ => hreg ▸ BitVec.getLsbD_and, hpc, hframe⟩
  · obtain ⟨t, hexec, hreg, hpc, hframe⟩ := exec_setReg_advance (exec_xorReg x y s)
    exact ⟨t, hexec, fun _ _ => hreg ▸ BitVec.getLsbD_xor, hpc, hframe⟩

end Sys2Proof.Machine
end

section
/-!
PROOFS. The index register and the decimal store (42 R161 to R164): what one write of `I` does, what a store of
consecutive bytes through `I` changes, and the instructions that make these writes.
-/

namespace Sys2Proof.Machine

/-! ### Reading back a store of consecutive bytes -/

/-- Byte `k` of a store that fits RAM is what the address `k` places up then holds (20_memory R70, R73). -/
theorem Memory.read_writeBytes_add {m : Memory} (hw : m.wf) {a : Nat} {bs : List Byte}
    (hfit : a + bs.length ≤ Config.ramSize) {k : Nat} {b : Byte} (hk : bs[k]? = some b) :
    (m.writeBytes a bs).read (a + k) = b := by
  rw [Memory.read_writeBytes hw a bs (.inl hfit), if_pos (Nat.le_add_right a k), Nat.add_sub_cancel_left, hk,
    Option.getD_some]

/-- A store that fits RAM leaves every byte outside its range as it was (20_memory R73). -/
theorem Memory.read_writeBytes_outside {m : Memory} (hw : m.wf) {a : Nat} {bs : List Byte}
    (hfit : a + bs.length ≤ Config.ramSize) {b : Nat} (hb : ¬ (a ≤ b ∧ b < a + bs.length)) :
    (m.writeBytes a bs).read b = m.read b := by
  rw [Memory.read_writeBytes hw a bs (.inl hfit)]
  split
  next hab =>
    have hpast : bs.length ≤ b - a := by omega
    rw [List.getElem?_eq_none hpast, Option.getD_none]
  next => rfl

/-! ### Frames -/

theorem State.changesOnly_setI (s : State) (a : Word) : ChangesOnly (fun p => p = .i) s (s.setI a) := by
  intro p hp
  cases p with
  | i => exact absurd rfl hp
  | _ => rfl

theorem State.changesOnly_setI_advance (s : State) (a : Word) :
    ChangesOnly (fun p => p = .i ∨ p = .pc) s (s.setI a).advance :=
  ((s.changesOnly_setI a).mono fun _ => .inl).trans ((s.setI a).changesOnly_advance.mono fun _ => .inr)

/-- A store through `I` that fits RAM changes the bytes of its data range and no other part (42 R160). -/
theorem State.changesOnly_setRam_writeBytes {s : State} (hw : s.ram.wf) {bs : List Byte}
    (hfit : s.base + bs.length ≤ Config.ramSize) :
    ChangesOnly (fun p => ∃ a, p = .ram a ∧ InDataRange s bs.length a) s
      (s.setRam (s.ram.writeBytes s.base bs)) := by
  intro p hp
  cases p with
  | ram a => exact Memory.read_writeBytes_outside hw hfit fun ha => hp ⟨a, rfl, ha⟩
  | _ => rfl

/-! ### Index register -/

/-- An instruction that writes `a` to `I` and moves on: `I` holds `a`, and nothing but it and `PC` changes. -/
theorem exec_setI_advance {i : Instr} {s : State} {a : Word} (h : exec i s = .next (s.setI a).advance) :
    ∃ t, exec i s = .next t ∧ t.i = a ∧ t.pc = s.pc + 2 ∧ ChangesOnly (fun p => p = .i ∨ p = .pc) s t :=
  ⟨_, h, rfl, rfl, s.changesOnly_setI_advance a⟩

theorem exec_loadI (nnn : Addr12) (s : State) :
    exec (.loadI nnn) s = .next (s.setI (zext16 nnn)).advance := rfl

theorem exec_addI (x : Reg) (s : State) :
    exec (.addI x) s = .next (s.setI (BitVec.ofNat 16 (s.i.toNat + (s.reg x).toNat))).advance := rfl

theorem exec_loadFont (x : Reg) (s : State) :
    exec (.loadFont x) s = .next (s.setI (BitVec.ofNat 16 (80 + (lowNibble (s.reg x)).toNat * 5))).advance := rfl

/-- The glyphs end far below 65536, so `I` holds the place of any of them (42 R163). -/
theorem glyphAddress_toNat (b : Byte) :
    (BitVec.ofNat 16 (80 + (lowNibble b).toNat * 5)).toNat = 80 + b.toNat % 16 * 5 := by
  rw [BitVec.toNat_ofNat, lowNibble_toNat]
  omega

/-- Settles O43: each of the three is one write of `I`; only the sum of `ADD I,Vx` can pass 16 bits, and wraps. -/
theorem indexRegisterUpdates : Obligations.IndexRegisterUpdates := by
  intro x nnn s
  refine ⟨?_, ?_, ?_⟩
  · obtain ⟨t, hexec, hi, hpc, hframe⟩ := exec_setI_advance (exec_loadI nnn s)
    exact ⟨t, hexec, hi ▸ zext16_toNat nnn, hpc, hframe⟩
  · obtain ⟨t, hexec, hi, hpc, hframe⟩ := exec_setI_advance (exec_addI x s)
    exact ⟨t, hexec, hi ▸ BitVec.toNat_ofNat _ _, hpc, hframe⟩
  · obtain ⟨t, hexec, hi, hpc, hframe⟩ := exec_setI_advance (exec_loadFont x s)
    exact ⟨t, hexec, hi ▸ glyphAddress_toNat _, hpc, hframe⟩

/-! ### Decimal digits -/

/-- The three bytes that `BCD` stores are the decimal digits, none of them cut by the width of a byte (42 R164). -/
theorem bcdDigits_toNat (b : Byte) :
    (bcdDigits b).map BitVec.toNat = [b.toNat / 100, b.toNat / 10 % 10, b.toNat % 10] := by
  have hb := b.isLt
  simp only [bcdDigits, List.map_cons, List.map_nil, BitVec.toNat_ofNat, List.cons.injEq, and_true]
  omega

/-- With the three bytes in RAM, `BCD` stores them and moves on (42 R164). -/
theorem exec_bcd_inside (x : Reg) {s : State} (h : s.base + 3 ≤ Config.ramSize) :
    exec (.bcd x) s = .next (s.setRam (s.ram.writeBytes s.base (bcdDigits (s.reg x)))).advance :=
  s.complete_checked _ (.inr h)

/-- With a byte past RAM, `BCD` only latches its fault (42 R164, 60 R212). -/
theorem exec_bcd_outside (x : Reg) {s : State} (h : ¬ s.base + 3 ≤ Config.ramSize) :
    exec (.bcd x) s = .next (s.raise (outOfRangeAt s.base)) :=
  s.complete_unchecked _ (by simpa using h)

/-- Where the three digits of `b` have been stored, the byte `k` places up reads as digit `k`. -/
theorem read_bcdDigits {m : Memory} (hw : m.wf) {a : Nat} (hfit : a + 3 ≤ Config.ramSize) (b : Byte) {k d : Nat}
    (hd : [b.toNat / 100, b.toNat / 10 % 10, b.toNat % 10][k]? = some d) :
    ((m.writeBytes a (bcdDigits b)).read (a + k)).toNat = d := by
  rw [← bcdDigits_toNat, List.getElem?_map, Option.map_eq_some_iff] at hd
  obtain ⟨digit, hk, rfl⟩ := hd
  rw [Memory.read_writeBytes_add hw hfit hk]

/-- Settles O44: up to 4093 the range check passes and the store reads back digit by digit; from 4094 up it fails
before anything is written. -/
theorem bcdStoresDecimalDigits : Obligations.BcdStoresDecimalDigits := by
  intro x s hw
  constructor
  · intro hfit
    have hframe : ChangesOnly (fun p => (∃ a, p = .ram a ∧ InDataRange s 3 a) ∨ p = .pc) s
        (s.setRam (s.ram.writeBytes s.base (bcdDigits (s.reg x)))).advance :=
      ((State.changesOnly_setRam_writeBytes (bs := bcdDigits (s.reg x)) hw hfit).mono fun _ => .inl).trans
        ((State.changesOnly_advance _).mono fun _ => .inr)
    exact ⟨_, exec_bcd_inside x hfit, read_bcdDigits hw hfit _ (k := 0) rfl, read_bcdDigits hw hfit _ (k := 1) rfl,
      read_bcdDigits hw hfit _ (k := 2) rfl, rfl, hframe⟩
  · intro hi
    have hout : ¬ s.i.toNat + 3 ≤ 4096 := by omega
    exact exec_bcd_outside x hout

end Sys2Proof.Machine
end

section
/-!
PROOFS. The framebuffer (43 R181): what one write of it changes, and the instruction that turns every pixel off.
-/

namespace Sys2Proof.Machine

/-! ### Frames -/

theorem State.changesOnly_setFb (s : State) (p : Pixels) : ChangesOnly (fun q => q = .fb) s (s.setFb p) := by
  intro q hq
  cases q with
  | fb => exact absurd rfl hq
  | _ => rfl

theorem State.changesOnly_setFb_advance (s : State) (p : Pixels) :
    ChangesOnly (fun q => q = .fb ∨ q = .pc) s (s.setFb p).advance :=
  ((s.changesOnly_setFb p).mono fun _ => .inl).trans ((s.setFb p).changesOnly_advance.mono fun _ => .inr)

/-! ### Clearing the display -/

theorem exec_clear (s : State) : exec .clear s = .next (s.setFb fbClear).advance := rfl

/-- Settles O50: `CLEAR` is one write of the framebuffer, and every pixel of the one written is off. -/
theorem clearTurnsEveryPixelOff : Obligations.ClearTurnsEveryPixelOff := by
  intro s
  exact ⟨_, exec_clear s, fun i _ => fbGet_clear i, rfl, s.changesOnly_setFb_advance fbClear⟩

end Sys2Proof.Machine
end

section
/-!
PROOFS. The timers (44 R196 to R198): what one write of `DT` or `ST` changes, and the three instructions that copy a
byte between a register and a timer.
-/

namespace Sys2Proof.Machine

/-! ### Frames -/

theorem State.changesOnly_setDt (s : State) (b : Byte) : ChangesOnly (fun p => p = .dt) s (s.setDt b) := by
  intro p hp
  cases p with
  | dt => exact absurd rfl hp
  | _ => rfl

theorem State.changesOnly_setDt_advance (s : State) (b : Byte) :
    ChangesOnly (fun p => p = .dt ∨ p = .pc) s (s.setDt b).advance :=
  ((s.changesOnly_setDt b).mono fun _ => .inl).trans ((s.setDt b).changesOnly_advance.mono fun _ => .inr)

/-- The tone output and the record of its pulses are among the parts kept: only a `Tick` drives them (44 R198). -/
theorem State.changesOnly_setSt (s : State) (b : Byte) : ChangesOnly (fun p => p = .st) s (s.setSt b) := by
  intro p hp
  cases p with
  | st => exact absurd rfl hp
  | _ => rfl

theorem State.changesOnly_setSt_advance (s : State) (b : Byte) :
    ChangesOnly (fun p => p = .st ∨ p = .pc) s (s.setSt b).advance :=
  ((s.changesOnly_setSt b).mono fun _ => .inl).trans ((s.setSt b).changesOnly_advance.mono fun _ => .inr)

/-! ### Timer transfers -/

theorem exec_loadFromDt (x : Reg) (s : State) :
    exec (.loadFromDt x) s = .next (s.setReg x s.dt).advance := rfl

theorem exec_loadDt (x : Reg) (s : State) : exec (.loadDt x) s = .next (s.setDt (s.reg x)).advance := rfl

theorem exec_loadSt (x : Reg) (s : State) : exec (.loadSt x) s = .next (s.setSt (s.reg x)).advance := rfl

/-- Settles O54: each transfer is one write, of a register or of a timer, and a move of `PC`; the frame of the write
of `ST` keeps the tone output and its pulses. -/
theorem timerTransfers : Obligations.TimerTransfers := by
  intro x s
  refine ⟨?fromDt, ?toDt, ?toSt⟩
  case fromDt => exact exec_setReg_advance (exec_loadFromDt x s)
  case toDt => exact ⟨_, exec_loadDt x s, rfl, rfl, s.changesOnly_setDt_advance (s.reg x)⟩
  case toSt => exact ⟨_, exec_loadSt x s, rfl, rfl, s.changesOnly_setSt_advance (s.reg x)⟩

end Sys2Proof.Machine
end

section
/-!
PROOFS. The step when the driver has listed an event (00_scope R3, R4), and the refresh of the key latch (60 R234).
-/

namespace Sys2Proof.Machine

/-- A listed event is run on the state whose pending events are those after it (00_scope R3, R4; log 1). -/
theorem step_of_pending {s : State} {e : Event} {rest : List Event} (h : s.pending = e :: rest) :
    step s = (s.setPending rest).runEvent e := by
  rw [step, h]

/-- Settles O16: the step runs the listed event, which is one write of `KEY` in every state of the engine. -/
theorem keyRefreshLoadsLatch : Obligations.KeyRefreshLoadsLatch := by
  intro s k rest hpending
  calc step s = (s.setPending rest).runEvent (.keyRefresh k) := step_of_pending hpending
    _ = .next ((s.setPending rest).keyRefresh k) := rfl
    _ = .next { s with pending := rest, key := k } := rfl

end Sys2Proof.Machine
end

section
/-!
PROOFS. The decoder and the encoder (30_encoding R91 to R104): a word put together again from its fields, what the
decoder answers for each value of `op`, and the opcode map.
-/

namespace Sys2Proof

/-! ### A word is its fields -/

theorem encodeNNN_fieldsOf (w : Word) : encodeNNN (fieldsOf w).op (fieldsOf w).nnn = w := by
  apply BitVec.eq_of_toNat_eq
  rw [encodeNNN_toNat, fieldsOf_op_toNat, fieldsOf_nnn_toNat]
  omega

theorem encodeX_fieldsOf (w : Word) : encodeX (fieldsOf w).op (fieldsOf w).x (fieldsOf w).nn = w := by
  apply BitVec.eq_of_toNat_eq
  rw [encodeX_toNat, fieldsOf_op_toNat, fieldsOf_x_toNat, fieldsOf_nn_toNat]
  omega

theorem encodeXY_fieldsOf (w : Word) :
    encodeXY (fieldsOf w).op (fieldsOf w).x (fieldsOf w).y (fieldsOf w).n = w := by
  apply BitVec.eq_of_toNat_eq
  rw [encodeXY_toNat, fieldsOf_op_toNat, fieldsOf_x_toNat, fieldsOf_y_toNat, fieldsOf_n_toNat]
  omega

/-- Field by field, a masked word is the masked field. -/
theorem fieldsOf_and (w m : Word) :
    (fieldsOf (w &&& m)).op = (fieldsOf w).op &&& (fieldsOf m).op ∧
      (fieldsOf (w &&& m)).n = (fieldsOf w).n &&& (fieldsOf m).n ∧
      (fieldsOf (w &&& m)).nn = (fieldsOf w).nn &&& (fieldsOf m).nn :=
  ⟨BitVec.extractLsb'_and, BitVec.extractLsb'_and, BitVec.extractLsb'_and⟩

/-- The canonical word of a format `XY` instruction whose low nibble the decoder ignores (30_encoding R104). -/
theorem encodeXY_fieldsOf_zero (w : Word) :
    encodeXY (fieldsOf w).op (fieldsOf w).x (fieldsOf w).y 0 = w &&& 0xFFF0 := by
  have hbits : ∀ i < 16, (encodeXY (fieldsOf w).op (fieldsOf w).x (fieldsOf w).y 0).getLsbD i =
      (w &&& 0xFFF0).getLsbD i := by
    intro i hi
    rw [encodeXY_getLsbD]
    interval_cases i <;> simp [fieldsOf]
  exact BitVec.eq_of_getLsbD_eq hbits

/-! ### What the decoder answers for each `op` (30_encoding R101) -/

section
variable {w : Word}

theorem decode_op0 (h : (fieldsOf w).op = 0x0#4) : decode w = decodeOp0 w := by simp [decode, h]
theorem decode_op1 (h : (fieldsOf w).op = 0x1#4) : decode w = .op (.jump (fieldsOf w).nnn) := by simp [decode, h]
theorem decode_op2 (h : (fieldsOf w).op = 0x2#4) : decode w = .op (.call (fieldsOf w).nnn) := by simp [decode, h]
theorem decode_op3 (h : (fieldsOf w).op = 0x3#4) : decode w = .op (.seImm (fieldsOf w).x (fieldsOf w).nn) := by
  simp [decode, h]
theorem decode_op4 (h : (fieldsOf w).op = 0x4#4) : decode w = .op (.sneImm (fieldsOf w).x (fieldsOf w).nn) := by
  simp [decode, h]
theorem decode_op5 (h : (fieldsOf w).op = 0x5#4) : decode w = .op (.seReg (fieldsOf w).x (fieldsOf w).y) := by
  simp [decode, h]
theorem decode_op6 (h : (fieldsOf w).op = 0x6#4) : decode w = .op (.loadImm (fieldsOf w).x (fieldsOf w).nn) := by
  simp [decode, h]
theorem decode_op7 (h : (fieldsOf w).op = 0x7#4) : decode w = .op (.addImm (fieldsOf w).x (fieldsOf w).nn) := by
  simp [decode, h]
theorem decode_op8 (h : (fieldsOf w).op = 0x8#4) : decode w = decodeOp8 w (fieldsOf w) := by simp [decode, h]
theorem decode_op9 (h : (fieldsOf w).op = 0x9#4) : decode w = .op (.sneReg (fieldsOf w).x (fieldsOf w).y) := by
  simp [decode, h]
theorem decode_opA (h : (fieldsOf w).op = 0xA#4) : decode w = .op (.loadI (fieldsOf w).nnn) := by simp [decode, h]
theorem decode_opB (h : (fieldsOf w).op = 0xB#4) : decode w = .op (.jumpV0 (fieldsOf w).nnn) := by simp [decode, h]
theorem decode_opC (h : (fieldsOf w).op = 0xC#4) : decode w = .op (.rand (fieldsOf w).x (fieldsOf w).nn) := by
  simp [decode, h]
theorem decode_opD (h : (fieldsOf w).op = 0xD#4) :
    decode w = .op (.draw (fieldsOf w).x (fieldsOf w).y (fieldsOf w).n) := by simp [decode, h]
theorem decode_opE (h : (fieldsOf w).op = 0xE#4) : decode w = decodeOpE w (fieldsOf w) := by simp [decode, h]
theorem decode_opF (h : (fieldsOf w).op = 0xF#4) : decode w = decodeOpF w (fieldsOf w) := by simp [decode, h]

end

theorem nibble_cases : ∀ a : BitVec 4, a = 0x0#4 ∨ a = 0x1#4 ∨ a = 0x2#4 ∨ a = 0x3#4 ∨ a = 0x4#4 ∨ a = 0x5#4 ∨
    a = 0x6#4 ∨ a = 0x7#4 ∨ a = 0x8#4 ∨ a = 0x9#4 ∨ a = 0xA#4 ∨ a = 0xB#4 ∨ a = 0xC#4 ∨ a = 0xD#4 ∨ a = 0xE#4 ∨
    a = 0xF#4 := by
  decide

/-! ### Decoding an encoded instruction -/

/-- Settles O1: the fields of an encoded word are the instruction's operands, and each value of `op`, with `n` or `nn`
below it, sends the decoder to the one arm of that instruction. -/
theorem decodeEncodeRoundTrip : Obligations.DecodeEncodeRoundTrip := by
  intro i
  cases i with
  | clear | ret => decide
  | jump nnn | call nnn | loadI nnn | jumpV0 nnn => simp [encode, decode, encodeNNN_fields]
  | seImm x nn | sneImm x nn | loadImm x nn | addImm x nn | rand x nn => simp [encode, decode, encodeX_fields]
  | seReg x y | sneReg x y => simp [encode, decode, encodeXY_fields]
  | draw x y n => simp [encode, decode, encodeXY_fields]
  | loadReg x y | orReg x y | andReg x y | xorReg x y | addReg x y | sub x y | shr x y | subn x y | shl x y =>
    simp [encode, decode, decodeOp8, encodeXY_fields]
  | skp x | sknp x => simp [encode, decode, decodeOpE, encodeX_fields]
  | loadFromDt x | loadKey x | loadDt x | loadSt x | addI x | loadFont x | bcd x | regdump x | regload x =>
    simp [encode, decode, decodeOpF, encodeX_fields]

/-! ### Encoding a decoded word -/

theorem encode_of_decodeOp0 {w : Word} {i : Instr} (h : decodeOp0 w = .op i) : encode i = w := by
  unfold decodeOp0 at h
  split at h
  next hw => cases h; exact hw.symm
  next =>
    split at h
    next hw => cases h; exact hw.symm
    next => cases h

theorem encode_of_decodeOp8 {w : Word} {i : Instr} (hop : (fieldsOf w).op = 0x8#4)
    (h : decodeOp8 w (fieldsOf w) = .op i) : encode i = w := by
  have hw := encodeXY_fieldsOf w
  rw [hop] at hw
  unfold decodeOp8 at h
  split at h <;> cases h <;> (rename_i hn; rwa [hn] at hw)

theorem encode_of_decodeOpE {w : Word} {i : Instr} (hop : (fieldsOf w).op = 0xE#4)
    (h : decodeOpE w (fieldsOf w) = .op i) : encode i = w := by
  have hw := encodeX_fieldsOf w
  rw [hop] at hw
  unfold decodeOpE at h
  split at h <;> cases h <;> (rename_i hnn; rwa [hnn] at hw)

theorem encode_of_decodeOpF {w : Word} {i : Instr} (hop : (fieldsOf w).op = 0xF#4)
    (h : decodeOpF w (fieldsOf w) = .op i) : encode i = w := by
  have hw := encodeX_fieldsOf w
  rw [hop] at hw
  unfold decodeOpF at h
  split at h <;> cases h <;> (rename_i hnn; rwa [hnn] at hw)

/-- Settles O3: each value of `op` decodes to an instruction that holds the word's fields, and a word is its fields;
only `5` and `9` drop one, the low nibble. -/
theorem decodedWordIsItsEncoding : Obligations.DecodedWordIsItsEncoding := by
  intro w i h
  have hNNN := encodeNNN_fieldsOf w
  have hX := encodeX_fieldsOf w
  have hXY := encodeXY_fieldsOf w
  have hXY0 := encodeXY_fieldsOf_zero w
  rcases nibble_cases (fieldsOf w).op with hop | hop | hop | hop | hop | hop | hop | hop | hop | hop | hop | hop |
    hop | hop | hop | hop <;> simp only [hop] at hNNN hX hXY hXY0 ⊢
  · rw [decode_op0 hop] at h; exact encode_of_decodeOp0 h
  · rw [decode_op1 hop] at h; cases h; exact hNNN
  · rw [decode_op2 hop] at h; cases h; exact hNNN
  · rw [decode_op3 hop] at h; cases h; exact hX
  · rw [decode_op4 hop] at h; cases h; exact hX
  · rw [decode_op5 hop] at h; cases h; exact hXY0
  · rw [decode_op6 hop] at h; cases h; exact hX
  · rw [decode_op7 hop] at h; cases h; exact hX
  · rw [decode_op8 hop] at h; exact encode_of_decodeOp8 hop h
  · rw [decode_op9 hop] at h; cases h; exact hXY0
  · rw [decode_opA hop] at h; cases h; exact hNNN
  · rw [decode_opB hop] at h; cases h; exact hNNN
  · rw [decode_opC hop] at h; cases h; exact hX
  · rw [decode_opD hop] at h; cases h; exact hXY
  · rw [decode_opE hop] at h; exact encode_of_decodeOpE hop h
  · rw [decode_opF hop] at h; exact encode_of_decodeOpF hop h

/-! ### Illegal words (30_encoding R102, R103) -/

theorem decodeOp0_error_iff_ne {w : Word} : decodeOp0 w = .decodeError w ↔ w ≠ 0x00E0#16 ∧ w ≠ 0x00EE#16 := by
  unfold decodeOp0
  split <;> [skip; split] <;> simp_all

theorem decodeOp0_error_iff {w : Word} (hop : (fieldsOf w).op = 0x0#4) :
    decodeOp0 w = .decodeError w ↔ (fieldsOf w).nnn ≠ 0x0E0#12 ∧ (fieldsOf w).nnn ≠ 0x0EE#12 := by
  have hw := encodeNNN_fieldsOf w
  rw [hop] at hw
  have hnnn : ∀ c : Addr12, w = encodeNNN 0x0#4 c ↔ (fieldsOf w).nnn = c := by
    intro c
    constructor
    · rintro rfl; exact (encodeNNN_fields _ _).2
    · rintro rfl; exact hw.symm
  have hclear : w = 0x00E0#16 ↔ (fieldsOf w).nnn = 0x0E0#12 := hnnn 0x0E0#12
  have hret : w = 0x00EE#16 ↔ (fieldsOf w).nnn = 0x0EE#12 := hnnn 0x0EE#12
  rw [decodeOp0_error_iff_ne, ne_eq, hclear, ne_eq, hret]

theorem decodeOp8_error_iff {w : Word} :
    decodeOp8 w (fieldsOf w) = .decodeError w ↔
      (fieldsOf w).n ∈ [0x8#4, 0x9#4, 0xA#4, 0xB#4, 0xC#4, 0xD#4, 0xF#4] := by
  unfold decodeOp8
  rcases nibble_cases (fieldsOf w).n with hn | hn | hn | hn | hn | hn | hn | hn | hn | hn | hn | hn | hn | hn | hn |
    hn <;> simp [hn]

theorem decodeOpE_error_iff {w : Word} :
    decodeOpE w (fieldsOf w) = .decodeError w ↔ (fieldsOf w).nn ∉ [0x9E#8, 0xA1#8] := by
  unfold decodeOpE
  split <;> simp_all

theorem decodeOpF_error_iff {w : Word} :
    decodeOpF w (fieldsOf w) = .decodeError w ↔
      (fieldsOf w).nn ∉ [0x07#8, 0x0A#8, 0x15#8, 0x18#8, 0x1E#8, 0x29#8, 0x33#8, 0x55#8, 0x65#8] := by
  unfold decodeOpF
  split <;> simp_all

/-- The illegal words, by their fields (30_encoding R103). -/
theorem decode_error_iff (w : Word) :
    decode w = .decodeError w ↔
      ((fieldsOf w).op = 0x0#4 ∧ (fieldsOf w).nnn ≠ 0x0E0#12 ∧ (fieldsOf w).nnn ≠ 0x0EE#12) ∨
      ((fieldsOf w).op = 0x8#4 ∧
        (fieldsOf w).n ∈ [0x8#4, 0x9#4, 0xA#4, 0xB#4, 0xC#4, 0xD#4, 0xF#4]) ∨
      ((fieldsOf w).op = 0xE#4 ∧ (fieldsOf w).nn ∉ [0x9E#8, 0xA1#8]) ∨
      ((fieldsOf w).op = 0xF#4 ∧
        (fieldsOf w).nn ∉ [0x07#8, 0x0A#8, 0x15#8, 0x18#8, 0x1E#8, 0x29#8, 0x33#8, 0x55#8, 0x65#8]) := by
  rcases nibble_cases (fieldsOf w).op with hop | hop | hop | hop | hop | hop | hop | hop | hop | hop | hop | hop |
    hop | hop | hop | hop
  · rw [decode_op0 hop, decodeOp0_error_iff hop]; simp [hop]
  · rw [decode_op1 hop]; simp [hop]
  · rw [decode_op2 hop]; simp [hop]
  · rw [decode_op3 hop]; simp [hop]
  · rw [decode_op4 hop]; simp [hop]
  · rw [decode_op5 hop]; simp [hop]
  · rw [decode_op6 hop]; simp [hop]
  · rw [decode_op7 hop]; simp [hop]
  · rw [decode_op8 hop, decodeOp8_error_iff]; simp [hop]
  · rw [decode_op9 hop]; simp [hop]
  · rw [decode_opA hop]; simp [hop]
  · rw [decode_opB hop]; simp [hop]
  · rw [decode_opC hop]; simp [hop]
  · rw [decode_opD hop]; simp [hop]
  · rw [decode_opE hop, decodeOpE_error_iff]; simp [hop]
  · rw [decode_opF hop, decodeOpF_error_iff]; simp [hop]

theorem decodes_iff_not_error (w : Word) : (∃ i, decode w = .op i) ↔ decode w ≠ .decodeError w := by
  constructor
  · rintro ⟨i, hi⟩ he
    rw [hi] at he
    cases he
  · exact (Machine.decode_op_or_error w).resolve_right

/-- Settles O4: `op` by `op`, the decoder's own default arms are the classes of R103; what it does not refuse it
decodes. -/
theorem illegalWordsAreExactlyThese : Obligations.IllegalWordsAreExactlyThese :=
  fun w => ⟨decode_error_iff w, decodes_iff_not_error w⟩

/-! ### The opcode map (30_encoding R100) -/

open Laws

/-- Every encoded instruction is of its own row. -/
theorem encode_fitsRow : ∀ i : Instr, EncodeFitsRow.Statement i
  | .clear => EncodeFitsRow.clear
  | .ret => EncodeFitsRow.ret
  | .jump nnn => EncodeFitsRow.jump nnn
  | .call nnn => EncodeFitsRow.call nnn
  | .seImm x nn => EncodeFitsRow.seImm x nn
  | .sneImm x nn => EncodeFitsRow.sneImm x nn
  | .seReg x y => EncodeFitsRow.seReg x y
  | .loadImm x nn => EncodeFitsRow.loadImm x nn
  | .addImm x nn => EncodeFitsRow.addImm x nn
  | .loadReg x y => EncodeFitsRow.loadReg x y
  | .orReg x y => EncodeFitsRow.orReg x y
  | .andReg x y => EncodeFitsRow.andReg x y
  | .xorReg x y => EncodeFitsRow.xorReg x y
  | .addReg x y => EncodeFitsRow.addReg x y
  | .sub x y => EncodeFitsRow.sub x y
  | .shr x y => EncodeFitsRow.shr x y
  | .subn x y => EncodeFitsRow.subn x y
  | .shl x y => EncodeFitsRow.shl x y
  | .sneReg x y => EncodeFitsRow.sneReg x y
  | .loadI nnn => EncodeFitsRow.loadI nnn
  | .jumpV0 nnn => EncodeFitsRow.jumpV0 nnn
  | .rand x nn => EncodeFitsRow.rand x nn
  | .draw x y n => EncodeFitsRow.draw x y n
  | .skp x => EncodeFitsRow.skp x
  | .sknp x => EncodeFitsRow.sknp x
  | .loadFromDt x => EncodeFitsRow.loadFromDt x
  | .loadKey x => EncodeFitsRow.loadKey x
  | .loadDt x => EncodeFitsRow.loadDt x
  | .loadSt x => EncodeFitsRow.loadSt x
  | .addI x => EncodeFitsRow.addI x
  | .loadFont x => EncodeFitsRow.loadFont x
  | .bcd x => EncodeFitsRow.bcd x
  | .regdump x => EncodeFitsRow.regdump x
  | .regload x => EncodeFitsRow.regload x

/-- A word of a row has the row's fields, where the mask takes in the whole field. -/
theorem field_of_masked {w m p : Word} (h : w &&& m = p) :
    ((fieldsOf m).op = 0xF#4 → (fieldsOf w).op = (fieldsOf p).op) ∧
      ((fieldsOf m).n = 0xF#4 → (fieldsOf w).n = (fieldsOf p).n) ∧
      ((fieldsOf m).nn = 0xFF#8 → (fieldsOf w).nn = (fieldsOf p).nn) := by
  subst h
  obtain ⟨hop, hn, hnn⟩ := fieldsOf_and w m
  rw [hop, hn, hnn]
  refine ⟨fun hm => ?_, fun hm => ?_, fun hm => ?_⟩
  · rw [hm]; exact BitVec.and_allOnes.symm
  · rw [hm]; exact BitVec.and_allOnes.symm
  · rw [hm]; exact BitVec.and_allOnes.symm

theorem mask_op : ∀ r ∈ opcodeTable, (fieldsOf r.mask).op = 0xF#4 := by decide

theorem rows_op0 : ∀ r ∈ opcodeTable, (fieldsOf r.pattern).op = 0x0#4 →
    r.mask = 0xFFFF ∧ ((fieldsOf r.pattern).nnn = 0x0E0#12 ∨ (fieldsOf r.pattern).nnn = 0x0EE#12) := by
  decide

theorem rows_op8 : ∀ r ∈ opcodeTable, (fieldsOf r.pattern).op = 0x8#4 → (fieldsOf r.mask).n = 0xF#4 ∧
    (fieldsOf r.pattern).n ∉ [0x8#4, 0x9#4, 0xA#4, 0xB#4, 0xC#4, 0xD#4, 0xF#4] := by
  decide

theorem rows_opE : ∀ r ∈ opcodeTable, (fieldsOf r.pattern).op = 0xE#4 → (fieldsOf r.mask).nn = 0xFF#8 ∧
    (fieldsOf r.pattern).nn ∈ [0x9E#8, 0xA1#8] := by
  decide

theorem rows_opF : ∀ r ∈ opcodeTable, (fieldsOf r.pattern).op = 0xF#4 → (fieldsOf r.mask).nn = 0xFF#8 ∧
    (fieldsOf r.pattern).nn ∈ [0x07#8, 0x0A#8, 0x15#8, 0x18#8, 0x1E#8, 0x29#8, 0x33#8, 0x55#8, 0x65#8] := by
  decide

/-- Two rows whose patterns agree under both masks are one row. -/
theorem rows_disjoint : ∀ r ∈ opcodeTable, ∀ q ∈ opcodeTable, r.pattern &&& q.mask = q.pattern &&& r.mask → r = q := by
  decide

theorem rows_mnemonic : ∀ r ∈ opcodeTable, ∀ q ∈ opcodeTable, r.mnemonic = q.mnemonic → r = q := by
  decide

/-- A word of a row is no illegal word: in each class of R103, the rows with that `op` fix the field that the class is
about, to a value that the class leaves out. -/
theorem decode_of_fits {w : Word} {r : OpcodeRow} (hr : r ∈ opcodeTable) (h : w &&& r.mask = r.pattern) :
    ∃ i, decode w = .op i := by
  obtain ⟨hop, hn, hnn⟩ := field_of_masked h
  specialize hop (mask_op r hr)
  rw [decodes_iff_not_error, ne_eq, decode_error_iff, hop]
  rintro (⟨h0, hE0, hEE⟩ | ⟨h8, hbad⟩ | ⟨hE, hbad⟩ | ⟨hF, hbad⟩)
  · obtain ⟨hmask, hnnn⟩ := rows_op0 r hr h0
    have hw : w = r.pattern := by rw [← h, hmask]; exact BitVec.and_allOnes.symm
    rw [← hw] at hnnn
    exact hnnn.elim hE0 hEE
  · obtain ⟨hmask, hgood⟩ := rows_op8 r hr h8
    exact hgood (hn hmask ▸ hbad)
  · obtain ⟨hmask, hgood⟩ := rows_opE r hr hE
    exact hbad (hnn hmask ▸ hgood)
  · obtain ⟨hmask, hgood⟩ := rows_opF r hr hF
    exact hbad (hnn hmask ▸ hgood)

/-- No word is of two rows: under both masks it has the bits of both patterns. -/
theorem fits_unique {w : Word} {r q : OpcodeRow} (hr : r ∈ opcodeTable) (hq : q ∈ opcodeTable)
    (hwr : w &&& r.mask = r.pattern) (hwq : w &&& q.mask = q.pattern) : r = q := by
  refine rows_disjoint r hr q hq ?_
  rw [← hwr, ← hwq, BitVec.and_assoc, BitVec.and_assoc, BitVec.and_comm r.mask]

/-- The masks of the rows with `op` 5 and 9 do not take in the nibble that the decoder ignores (30_encoding R104). -/
theorem rows_lowNibble : ∀ r ∈ opcodeTable, (fieldsOf r.pattern).op = 0x5#4 ∨ (fieldsOf r.pattern).op = 0x9#4 →
    0xFFF0#16 &&& r.mask = r.mask := by
  decide

/-- A decoded word is of the instruction's own row, as the instruction's encoding is. -/
theorem fits_of_decode {w : Word} {i : Instr} (h : decode w = .op i) :
    ∃ r ∈ opcodeTable, r.mnemonic = i.mnemonic ∧ w &&& r.mask = r.pattern := by
  obtain ⟨r, hr, hname, hfits⟩ := encode_fitsRow i
  refine ⟨r, hr, hname, ?_⟩
  have hrow : encode i &&& r.mask = r.pattern := by simpa [OpcodeRow.fits] using hfits
  rw [decodedWordIsItsEncoding w i h] at hrow
  split at hrow
  next hop =>
    have hsame : (fieldsOf (w &&& 0xFFF0#16)).op = (fieldsOf w).op := by
      rw [(fieldsOf_and _ _).1]; exact BitVec.and_allOnes
    obtain ⟨hrop, -, -⟩ := field_of_masked hrow
    rw [← hsame, hrop (mask_op r hr)] at hop
    rwa [BitVec.and_assoc, rows_lowNibble r hr hop] at hrow
  next => exact hrow

/-- Settles O2: a word of a row decodes to some instruction, whose row the word is of too, and no word is of two. -/
theorem decodeAgreesWithOpcodeMap : Obligations.DecodeAgreesWithOpcodeMap := by
  refine ⟨fun w r hr => ⟨fun hw => ?_, ?_⟩, fun w r q hr hq => fits_unique hr hq⟩
  · obtain ⟨i, hi⟩ := decode_of_fits hr hw
    obtain ⟨q, hq, hname, hwq⟩ := fits_of_decode hi
    obtain rfl := fits_unique hr hq hw hwq
    exact ⟨i, hi, hname.symm⟩
  · rintro ⟨i, hi, hname⟩
    obtain ⟨q, hq, hname', hwq⟩ := fits_of_decode hi
    obtain rfl := rows_mnemonic r hr q hq (hname.symm.trans hname'.symm)
    exact hwq

/-- A word is illegal, no row having it, exactly when the decoder refuses it (30_encoding R102). -/
theorem legal_eq_false_iff (w : Word) : Word.legal w = false ↔ decode w = .decodeError w := by
  have hlegal : Word.legal w = true ↔ ∃ i, decode w = .op i := by
    simp only [Word.legal, List.any_eq_true, OpcodeRow.fits, beq_iff_eq]
    constructor
    · rintro ⟨r, hr, hw⟩
      exact decode_of_fits hr hw
    · rintro ⟨i, hi⟩
      obtain ⟨r, hr, -, hw⟩ := fits_of_decode hi
      exact ⟨r, hr, hw⟩
  rw [← Bool.not_eq_true, hlegal, decodes_iff_not_error, not_not]

/-- Settles O5: one evaluation of the decoder for each word. -/
theorem sampleWordsDecode : Obligations.SampleWordsDecode := by
  refine ⟨?_, ?_, ?_, ?_, ?_, ?_, ?_, ?_, ?_⟩ <;> rfl

end Sys2Proof
end

section
/-!
PROOFS. Calls (40 R122, R124), skips (40 R126 to R129, 44 R191, R192), random bytes (41 R153) and the entry of a key
wait (44 R194): each a short list of writes, and a frame of their parts.
-/

namespace Sys2Proof.Machine

/-- What is answered is one state. -/
theorem next_unique {r : Result} {t u : State} (ht : r = .next t) (hu : r = .next u) : u = t :=
  Host.Outcome.next.inj (hu.symm.trans ht)

/-! ### CALL -/

/-- With room on the stack, `CALL` pushes the address after itself and jumps (40 R124; log 12). -/
theorem exec_call_of_room (nnn : Addr12) {s : State} (h : s.sp < Config.stackDepth) :
    exec (.call nnn) s = .next ((s.setStack ((s.pc + 2) :: s.stack)).setPc (zext16 nnn)) := by
  change execCall nnn s = _
  simp [execCall, s.push_ok _ h]

/-- On a full stack `CALL` only latches its fault (40 R124, 60 R212). -/
theorem exec_call_of_full (nnn : Addr12) {s : State} (h : Config.stackDepth ≤ s.sp) :
    exec (.call nnn) s = .next (s.raise ⟨.stackOverflow, 0⟩) := by
  change execCall nnn s = _
  simp [execCall, s.push_full _ h]

theorem State.changesOnly_setStack_setPc (s : State) (l : List Word) (a : Word) :
    ChangesOnly (fun p => p = .stack ∨ p = .pc) s ((s.setStack l).setPc a) :=
  ((s.changesOnly_setStack l).mono fun _ => .inl).trans (((s.setStack l).changesOnly_setPc a).mono fun _ => .inr)

/-- An entry pushed is the cell above the older ones (10_state R28; log 19). -/
theorem State.stackCell_setStack_cons (s : State) (a : Word) :
    (s.setStack (a :: s.stack)).stackCell s.sp = some a := by
  simp [State.stackCell, State.sp]

/-- A push leaves the older cells at their numbers. -/
theorem State.stackCell_setStack_cons_of_lt (s : State) (a : Word) {k : Nat} (hk : k < s.sp) :
    (s.setStack (a :: s.stack)).stackCell k = s.stackCell k :=
  (State.stackCell_setStack_tail (s := s.setStack (a :: s.stack)) rfl hk).symm

/-- Settles O31: below 16 entries the new head of the list is the cell `STACK[SP]`; at 16 the push fails before anything
is written. -/
theorem callPushesReturnAddress : Obligations.CallPushesReturnAddress := by
  intro nnn s
  constructor
  · intro hroom
    exact ⟨_, exec_call_of_room nnn hroom, zext16_toNat nnn, rfl, s.stackCell_setStack_cons _,
      fun _ hk => s.stackCell_setStack_cons_of_lt _ hk, (s.changesOnly_setStack_setPc _ _).mono fun _ => Or.symm⟩
  · exact exec_call_of_full nnn

/-- Settles O32: the `RETURN` finds the pushed address on top of the stack that the `CALL` found. -/
theorem returnUndoesCall : Obligations.ReturnUndoesCall := by
  intro nnn s hroom
  refine ⟨_, _, exec_call_of_room nnn hroom, exec_ret_of_stack_cons rfl, rfl, ?_⟩
  exact s.changesOnly_setPc (s.pc + 2)

/-! ### Skips -/

/-- A skip on a condition: `PC + 4` when it holds, `PC + 2` when it does not, and nothing else changes (40 R121). -/
theorem exec_skipIf {i : Instr} {s : State} {c : Bool} {P : Prop} [Decidable P] (h : exec i s = .next (s.skipIf c))
    (hc : c = true ↔ P) :
    ∃ t, exec i s = .next t ∧ t.pc = (if P then s.pc + 4 else s.pc + 2) ∧ ChangesOnly (fun p => p = .pc) s t :=
  ⟨_, h, by simp only [State.skipIf_pc, hc], s.changesOnly_setPc _⟩

/-- The same for a skip on the opposite of a condition. -/
theorem exec_skipIf_not {i : Instr} {s : State} {c : Bool} {P : Prop} [Decidable P]
    (h : exec i s = .next (s.skipIf c)) (hc : c = true ↔ ¬ P) :
    ∃ t, exec i s = .next t ∧ t.pc = (if P then s.pc + 2 else s.pc + 4) ∧ ChangesOnly (fun p => p = .pc) s t := by
  simpa only [ite_not] using exec_skipIf h hc

theorem exec_seImm (x : Reg) (nn : Byte) (s : State) :
    exec (.seImm x nn) s = .next (s.skipIf (s.reg x == nn)) := rfl

theorem exec_sneImm (x : Reg) (nn : Byte) (s : State) :
    exec (.sneImm x nn) s = .next (s.skipIf (s.reg x != nn)) := rfl

theorem exec_seReg (x y : Reg) (s : State) : exec (.seReg x y) s = .next (s.skipIf (s.reg x == s.reg y)) := rfl

theorem exec_sneReg (x y : Reg) (s : State) : exec (.sneReg x y) s = .next (s.skipIf (s.reg x != s.reg y)) := rfl

theorem exec_skp (x : Reg) (s : State) :
    exec (.skp x) s = .next (s.skipIf (s.keyDown (lowNibble (s.reg x)))) := rfl

theorem exec_sknp (x : Reg) (s : State) :
    exec (.sknp x) s = .next (s.skipIf (!s.keyDown (lowNibble (s.reg x)))) := rfl

theorem byte_beq_iff_toNat (a b : Byte) : (a == b) = true ↔ a.toNat = b.toNat := by
  rw [beq_iff_eq, BitVec.toNat_inj]

theorem byte_bne_iff_toNat (a b : Byte) : (a != b) = true ↔ ¬ a.toNat = b.toNat := by
  rw [bne_iff_ne, ne_eq, BitVec.toNat_inj]

/-- Settles O34: `SE` skips on equal operands, `SNE` on different ones. -/
theorem skipsCompareRegisters : Obligations.SkipsCompareRegisters := by
  intro x y nn s
  refine ⟨?_, ?_, ?_, ?_⟩
  · exact exec_skipIf (exec_seImm x nn s) (byte_beq_iff_toNat _ _)
  · exact exec_skipIf_not (exec_sneImm x nn s) (byte_bne_iff_toNat _ _)
  · exact exec_skipIf (exec_seReg x y s) (byte_beq_iff_toNat _ _)
  · exact exec_skipIf_not (exec_sneReg x y s) (byte_bne_iff_toNat _ _)

/-- The key that a register names is a bit of the latch (44 R190, R191). -/
theorem State.keyDown_lowNibble (s : State) (b : Byte) :
    s.keyDown (lowNibble b) = s.key.getLsbD (b.toNat % 16) := by
  rw [State.keyDown, lowNibble_toNat]

/-- Settles O35: `SKP` skips on a set bit of the latch, `SKNP` on a clear one. -/
theorem skipsTestKeyLatch : Obligations.SkipsTestKeyLatch := by
  intro x s
  constructor
  · exact exec_skipIf (exec_skp x s) (by rw [s.keyDown_lowNibble])
  · exact exec_skipIf_not (exec_sknp x s) (by rw [s.keyDown_lowNibble, Bool.not_eq_true', Bool.not_eq_true])

/-! ### RAND -/

theorem exec_rand (x : Reg) (nn : Byte) (s : State) :
    exec (.rand x nn) s = .next (s.setReg x (Config.randByte s.draws &&& nn)).countDraw.advance := rfl

theorem State.changesOnly_countDraw (s : State) : ChangesOnly (fun p => p = .draws) s s.countDraw := by
  intro p hp
  cases p with
  | draws => exact absurd rfl hp
  | _ => rfl

theorem State.changesOnly_setReg_countDraw_advance (s : State) (x : Reg) (b : Byte) :
    ChangesOnly (fun p => p = .v x ∨ p = .draws ∨ p = .pc) s (s.setReg x b).countDraw.advance :=
  ((s.changesOnly_setReg x b).mono fun _ => .inl).trans
    ((((s.setReg x b).changesOnly_countDraw).mono fun _ hp => .inr (.inl hp)).trans
      ((State.changesOnly_advance _).mono fun _ hp => .inr (.inr hp)))

/-- Settles O42: one register write of the masked draw, and one more draw counted. -/
theorem randomIsMaskedDraw : Obligations.RandomIsMaskedDraw := by
  intro x nn s
  refine ⟨_, exec_rand x nn s, fun j _ => ?_, rfl, rfl, s.changesOnly_setReg_countDraw_advance x _⟩
  simp

/-! ### The entry of a key wait -/

theorem exec_loadKey (x : Reg) (s : State) :
    exec (.loadKey x) s = .next (((s.setWait true).setWreg x).setKprev s.key) := rfl

theorem State.changesOnly_enterWait (s : State) (x : Reg) (k : Word) :
    ChangesOnly (fun p => p = .wait ∨ p = .wreg ∨ p = .kprev) s (((s.setWait true).setWreg x).setKprev k) := by
  intro p hp
  cases p with
  | wait => exact absurd (.inl rfl) hp
  | wreg => exact absurd (.inr (.inl rfl)) hp
  | kprev => exact absurd (.inr (.inr rfl)) hp
  | _ => rfl

/-- Settles O53: the three elements of the wait are written, `PC` and the registers are not. -/
theorem loadKeyEntersWait : Obligations.LoadKeyEntersWait := by
  intro x s
  exact ⟨_, exec_loadKey x s, rfl, rfl, rfl, s.changesOnly_enterWait x s.key⟩

end Sys2Proof.Machine
end

section
/-!
PROOFS. Bytes of RAM (20_memory R64 to R73) and the bulk transfers through `I` (42 R165 to R167).
-/

namespace Sys2Proof.Machine

/-! ### What a store leaves unchanged

These need no canonical form: a store touches the entries of its own addresses only. -/

theorem Memory.read_put_of_ne (m : Memory) {a b : Nat} (v : Byte) (h : a ≠ b) :
    (Memory.put a v m).read b = m.read b := by
  unfold Memory.put
  split
  · rfl
  · simp [Memory.read, h]

theorem Memory.read_write_of_ne (m : Memory) {a b : Nat} (v : Byte) (h : a ≠ b) :
    (m.write a v).read b = m.read b := by
  induction m with
  | nil => exact Memory.read_put_of_ne [] v h
  | cons c m ih =>
    simp only [Memory.write]
    split
    · exact Memory.read_put_of_ne _ v h
    · split
      · rename_i hk
        rw [Memory.read_put_of_ne m v h, Memory.read, if_neg (hk ▸ h)]
      · simp only [Memory.read, ih]

theorem Memory.read_writeBytes_of_outside (m : Memory) {a b : Nat} {bs : List Byte}
    (h : ¬ (a ≤ b ∧ b < a + bs.length)) : (m.writeBytes a bs).read b = m.read b := by
  induction bs generalizing m a with
  | nil => rfl
  | cons v bs ih =>
    rw [List.length_cons] at h
    calc (m.writeBytes a (v :: bs)).read b = ((m.write a v).writeBytes (a + 1) bs).read b := rfl
      _ = (m.write a v).read b := ih _ (by omega)
      _ = m.read b := Memory.read_write_of_ne m v (by omega)

theorem State.changesOnly_writeBytes (s : State) (a : Nat) (bs : List Byte) :
    ChangesOnly (fun p => ∃ b, p = .ram b ∧ a ≤ b ∧ b < a + bs.length) s (s.setRam (s.ram.writeBytes a bs)) := by
  intro p hp
  cases p with
  | ram b => exact Memory.read_writeBytes_of_outside _ fun hb => hp ⟨b, rfl, hb⟩
  | _ => rfl

/-! ### The checked primitives -/

theorem State.memWriteByte_ok (s : State) {a : Nat} (h : a < Config.ramSize) (b : Byte) :
    s.memWriteByte a b = .ok (s.setRam (s.ram.write a b)) := by
  simp [State.memWriteByte, checkRange_ok (a := a) (n := 1) (.inr h)]

theorem State.memReadByte_ok (s : State) {a : Nat} (h : a < Config.ramSize) :
    s.memReadByte a = .ok (s.ram.read a) := by
  simp [State.memReadByte, checkRange_ok (a := a) (n := 1) (.inr h)]

theorem checkRange_byte_error {a : Nat} (h : Config.ramSize ≤ a) :
    checkRange a 1 = .error ⟨.outOfRange, BitVec.ofNat 16 a⟩ := by
  have hout : ¬ (1 = 0 ∨ a + 1 ≤ Config.ramSize) := by omega
  rw [checkRange_error hout, outOfRangeAt, Nat.max_eq_left h]

theorem State.memWriteByte_error (s : State) {a : Nat} (h : Config.ramSize ≤ a) (b : Byte) :
    s.memWriteByte a b = .error ⟨.outOfRange, BitVec.ofNat 16 a⟩ := by
  simp [State.memWriteByte, checkRange_byte_error h]

theorem State.memReadByte_error (s : State) {a : Nat} (h : Config.ramSize ≤ a) :
    s.memReadByte a = .error ⟨.outOfRange, BitVec.ofNat 16 a⟩ := by
  simp [State.memReadByte, checkRange_byte_error h]

/-- A read depends on the byte at its address alone. -/
theorem State.memReadByte_congr {s t : State} {a : Nat} (h : t.ram.read a = s.ram.read a) :
    t.memReadByte a = s.memReadByte a := by
  simp only [State.memReadByte, h]

/-- Settles O49: inside RAM the write is one store, which reads back; outside, both checks fail. -/
theorem checkedWriteReadsBack : Obligations.CheckedWriteReadsBack := by
  intro s a b hw
  constructor
  · intro ha
    have hread : (s.ram.write a b).read a = b := by rw [Memory.read_write _ hw, if_pos rfl]
    refine ⟨_, s.memWriteByte_ok ha b, ?_, fun a' ha' => ?_, ?_⟩
    · rw [State.memReadByte_ok _ ha, State.setRam_ram, hread]
    · exact State.memReadByte_congr (Memory.read_write_of_ne _ b ha'.symm)
    · exact (s.changesOnly_writeBytes a [b]).mono fun p ⟨b', hp, hlo, hhi⟩ =>
        hp.trans (congrArg Part.ram (Nat.le_antisymm (Nat.lt_succ_iff.1 hhi) hlo))
  · intro ha
    exact ⟨s.memWriteByte_error ha b, s.memReadByte_error ha⟩

/-! ### The index register after a bulk transfer -/

theorem lt_bulkCount_iff {k : Nat} {x : Reg} : k < bulkCount x ↔ k ≤ x.toNat := Nat.lt_succ_iff

theorem State.bulkIndex_toNat (s : State) (x : Reg) : (s.bulkIndex x).toNat =
    if s.cfg.indexIncrementOnBulk then (s.i.toNat + x.toNat + 1) % 65536 else s.i.toNat := by
  unfold State.bulkIndex bulkCount
  split
  · simp [BitVec.toNat_add, Nat.add_assoc]
  · rfl

/-- `I` changes only when the parameter says so (42 R167). -/
theorem State.changesOnly_setI_bulkIndex (s : State) (x : Reg) :
    ChangesOnly (fun p => p = .i ∧ s.cfg.indexIncrementOnBulk = true) s (s.setI (s.bulkIndex x)) := by
  intro p hp
  cases p with
  | i => exact if_neg fun hinc => hp ⟨rfl, hinc⟩
  | _ => rfl

/-! ### REGDUMP -/

/-- With its whole range in RAM, `REGDUMP` stores the registers, moves `I` and goes on (42 R165). -/
theorem exec_regdump_inside (x : Reg) {s : State} (h : s.base + bulkCount x ≤ Config.ramSize) :
    exec (.regdump x) s =
      .next ((s.setRam (s.ram.writeBytes s.base (s.bulkRegs x))).setI (s.bulkIndex x)).advance :=
  s.complete_checked _ (.inr h)

/-- With a byte past RAM, `REGDUMP` only latches its fault (42 R165, 60 R212). -/
theorem exec_regdump_outside (x : Reg) {s : State} (h : ¬ s.base + bulkCount x ≤ Config.ramSize) :
    exec (.regdump x) s = .next (s.raise (outOfRangeAt s.base)) :=
  s.complete_unchecked _ (by simpa [bulkCount] using h)

theorem State.changesOnly_regdump (s : State) (x : Reg) :
    ChangesOnly (fun p => (∃ a, p = .ram a ∧ InDataRange s (bulkCount x) a) ∨
        (p = .i ∧ s.cfg.indexIncrementOnBulk = true) ∨ p = .pc) s
      ((s.setRam (s.ram.writeBytes s.base (s.bulkRegs x))).setI (s.bulkIndex x)).advance := by
  have hram := s.changesOnly_writeBytes s.base (s.bulkRegs x)
  rw [State.bulkRegs_length] at hram
  have hi := (s.setRam (s.ram.writeBytes s.base (s.bulkRegs x))).changesOnly_setI_bulkIndex x
  exact (hram.mono fun _ => .inl).trans ((hi.mono fun _ hp => .inr (.inl hp)).trans
    ((State.changesOnly_advance _).mono fun _ hp => .inr (.inr hp)))

/-- A register among the first `x + 1` is found where the dump put it. -/
theorem State.read_bulkRegs {s : State} (hw : s.ram.wf) {x r : Reg} (hr : r.toNat ≤ x.toNat)
    (hfit : s.base + bulkCount x ≤ Config.ramSize) :
    (s.ram.writeBytes s.base (s.bulkRegs x)).read (s.base + r.toNat) = s.reg r := by
  refine Memory.read_writeBytes_add hw (by rwa [State.bulkRegs_length]) ?_
  rw [State.bulkRegs_get?, if_pos (lt_bulkCount_iff.2 hr), BitVec.ofNat_toNat, BitVec.setWidth_eq]

/-- Settles O45: inside RAM the store reads back register by register; a range past 4096 fails its check before
anything is written. -/
theorem regdumpStoresRegisters : Obligations.RegdumpStoresRegisters := by
  intro x s hw
  constructor
  · intro hfit
    exact ⟨_, exec_regdump_inside x hfit, fun r hr => State.read_bulkRegs hw hr hfit, s.bulkIndex_toNat x, rfl,
      s.changesOnly_regdump x⟩
  · intro hpast
    have hout : ¬ s.i.toNat + (x.toNat + 1) ≤ 4096 := by omega
    exact exec_regdump_outside x hout

/-! ### REGLOAD -/

/-- With its whole range in RAM, `REGLOAD` loads the registers, moves `I` and goes on (42 R166). -/
theorem exec_regload_inside (x : Reg) {s : State} (h : s.base + bulkCount x ≤ Config.ramSize) :
    exec (.regload x) s = .next ((s.setRegs (s.bulkLoaded x)).setI (s.bulkIndex x)).advance :=
  s.complete_checked _ (.inr h)

/-- With a byte past RAM, `REGLOAD` only latches its fault (42 R166, 60 R212). -/
theorem exec_regload_outside (x : Reg) {s : State} (h : ¬ s.base + bulkCount x ≤ Config.ramSize) :
    exec (.regload x) s = .next (s.raise (outOfRangeAt s.base)) :=
  s.complete_unchecked _ (by simpa [bulkCount] using h)

/-- The registers up to `V[x]` hold the bytes from `I` up. -/
theorem State.bulkLoaded_of_le (s : State) {x r : Reg} (hr : r.toNat ≤ x.toNat) :
    (s.bulkLoaded x)[r.toNat] = s.ram.read (s.base + r.toNat) := by
  rw [State.bulkLoaded_get, if_pos (lt_bulkCount_iff.2 hr)]

/-- The registers above `V[x]` are as they were. -/
theorem State.bulkLoaded_of_gt (s : State) {x r : Reg} (hr : x.toNat < r.toNat) :
    (s.bulkLoaded x)[r.toNat] = s.reg r := by
  rw [State.bulkLoaded_get, if_neg (mt lt_bulkCount_iff.1 (Nat.not_le.2 hr)), State.reg]

theorem State.changesOnly_setRegs_bulkLoaded (s : State) (x : Reg) :
    ChangesOnly (fun p => ∃ r : Reg, p = .v r ∧ r.toNat ≤ x.toNat) s (s.setRegs (s.bulkLoaded x)) := by
  intro p hp
  cases p with
  | v r => exact s.bulkLoaded_of_gt (Nat.lt_of_not_le fun hr => hp ⟨r, rfl, hr⟩)
  | _ => rfl

theorem State.changesOnly_regload (s : State) (x : Reg) :
    ChangesOnly (fun p => (∃ r : Reg, p = .v r ∧ r.toNat ≤ x.toNat) ∨
        (p = .i ∧ s.cfg.indexIncrementOnBulk = true) ∨ p = .pc) s
      ((s.setRegs (s.bulkLoaded x)).setI (s.bulkIndex x)).advance := by
  have hi := (s.setRegs (s.bulkLoaded x)).changesOnly_setI_bulkIndex x
  exact ((s.changesOnly_setRegs_bulkLoaded x).mono fun _ => .inl).trans ((hi.mono fun _ hp => .inr (.inl hp)).trans
    ((State.changesOnly_advance _).mono fun _ hp => .inr (.inr hp)))

/-- Settles O46: inside RAM each register up to `V[x]` is the byte at its place; a range past 4096 fails its check
before anything is written. -/
theorem regloadLoadsRegisters : Obligations.RegloadLoadsRegisters := by
  intro x s
  constructor
  · intro hfit
    exact ⟨_, exec_regload_inside x hfit, fun r hr => s.bulkLoaded_of_le hr, s.bulkIndex_toNat x, rfl,
      s.changesOnly_regload x⟩
  · intro hpast
    have hout : ¬ s.i.toNat + (x.toNat + 1) ≤ 4096 := by omega
    exact exec_regload_outside x hout

/-! ### A dump and what comes after it -/

/-- Settles O47: `I` being back, the load reads each byte where the dump stored it. -/
theorem regloadUndoesRegdump : Obligations.RegloadUndoesRegdump := by
  intro x v s hw hfit
  refine ⟨_, _, exec_regdump_inside x hfit, exec_regload_inside x hfit, fun r hr => ?_, fun r hr => ?_⟩
  · exact (State.bulkLoaded_of_le _ hr).trans (State.read_bulkRegs hw hr hfit)
  · exact State.bulkLoaded_of_gt _ hr

/-- Settles O48: after the dump `PC` is at the byte of `V[k]`, so the word fetched is that byte and the next. -/
theorem storedInstructionIsFetchedNext : Obligations.StoredInstructionIsFetchedNext := by
  intro x k s t hw hfit hk hpc hexec
  obtain rfl := next_unique (exec_regdump_inside x hfit) hexec
  have hx := x.isLt
  have hnext : (k + 1).toNat = k.toNat + 1 := by bv_omega
  have hadvanced : (s.pc + 2).toNat = s.i.toNat + k.toNat := by bv_omega
  have hroom : (s.pc + 2).toNat + 2 ≤ 4096 := by omega
  have hhigh := State.read_bulkRegs (r := k) hw (by omega) hfit
  have hlow := State.read_bulkRegs (r := k + 1) hw (by omega) hfit
  rw [hnext] at hlow
  rw [State.fetch_ok _ hroom, State.wordAtPc, ← hhigh, ← hlow, State.advance_pc, State.setI_pc, State.setRam_pc,
    hadvanced]
  rfl

end Sys2Proof.Machine
end

section
/-!
PROOFS. Drawing (43 R182 to R185). A part of a draw toggles a set of pixels and notes whether one of them was on; two
parts with no pixel in common make one part. So a draw is one such part, whose set is `SpriteCovers`.
-/

namespace Sys2Proof.Machine

/-! ### Parts of a draw -/

/-- The place of pixel `(px, py)` of the grid. -/
theorem pixelIndex_of_lt {px py : Nat} (hx : px < 64) (hy : py < 32) : pixelIndex px py = py * 64 + px := by
  simp only [pixelIndex, Config.fbHeight, Config.fbWidth, Nat.mod_eq_of_lt hx, Nat.mod_eq_of_lt hy]

/-- From `c` to `c'` exactly the pixels in `S` are toggled, and a collision is noted when one of them was on (43 R180,
R182). -/
def Canvas.Toggles (S : Nat → Nat → Bool) (c c' : Canvas) : Prop :=
  (∀ px < 64, ∀ py < 32, fbGet c'.fb (pixelIndex px py) = (fbGet c.fb (pixelIndex px py) ^^ S px py)) ∧
    (c'.collision = true ↔
      c.collision = true ∨ ∃ px < 64, ∃ py < 32, fbGet c.fb (pixelIndex px py) = true ∧ S px py = true)

theorem Canvas.Toggles.none (c : Canvas) : c.Toggles (fun _ _ => false) c := by
  simp [Canvas.Toggles]

theorem Canvas.Toggles.congr {S T : Nat → Nat → Bool} {c c' : Canvas} (h : c.Toggles S c')
    (hST : ∀ px < 64, ∀ py < 32, S px py = T px py) : c.Toggles T c' := by
  obtain ⟨hget, hcol⟩ := h
  refine ⟨fun px hx py hy => hST px hx py hy ▸ hget px hx py hy, hcol.trans (or_congr_right ?_)⟩
  constructor
  · rintro ⟨px, hx, py, hy, hon, hS⟩
    exact ⟨px, hx, py, hy, hon, hST px hx py hy ▸ hS⟩
  · rintro ⟨px, hx, py, hy, hon, hT⟩
    exact ⟨px, hx, py, hy, hon, (hST px hx py hy).trans hT⟩

/-- Two parts with no pixel in common: the second meets its pixels as the first met them. -/
theorem Canvas.Toggles.trans {S T : Nat → Nat → Bool} {c c' c'' : Canvas} (h : c.Toggles S c') (h' : c'.Toggles T c'')
    (hdisj : ∀ px < 64, ∀ py < 32, S px py = true → T px py = false) :
    c.Toggles (fun px py => S px py || T px py) c'' := by
  obtain ⟨hget, hcol⟩ := h
  obtain ⟨hget', hcol'⟩ := h'
  have hsame : ∀ px < 64, ∀ py < 32, T px py = true →
      fbGet c'.fb (pixelIndex px py) = fbGet c.fb (pixelIndex px py) := by
    intro px hx py hy hT
    have hS : S px py = false := by
      by_contra hS
      rw [hdisj px hx py hy (by simpa using hS)] at hT
      cases hT
    rw [hget px hx py hy, hS, Bool.xor_false]
  constructor
  · intro px hx py hy
    rw [hget' px hx py hy, hget px hx py hy, Bool.xor_assoc]
    change _ = (_ ^^ (S px py || T px py))
    cases hS : S px py with
    | false => simp
    | true => simp [hdisj px hx py hy hS]
  · rw [hcol', hcol, or_assoc]
    refine or_congr_right ⟨?_, ?_⟩
    · rintro (⟨px, hx, py, hy, hon, hS⟩ | ⟨px, hx, py, hy, hon, hT⟩)
      · exact ⟨px, hx, py, hy, hon, by simp [hS]⟩
      · exact ⟨px, hx, py, hy, hsame px hx py hy hT ▸ hon, by simp [hT]⟩
    · rintro ⟨px, hx, py, hy, hon, hST⟩
      rcases Bool.or_eq_true _ _ ▸ hST with hS | hT
      · exact .inl ⟨px, hx, py, hy, hon, hS⟩
      · exact .inr ⟨px, hx, py, hy, (hsame px hx py hy hT).trans hon, hT⟩

/-! ### One column -/

/-- How far right of column `x0` the column `px` lies, around the edge (43 R184). -/
def columnOffset (x0 px : Nat) : Nat := (px + 64 - x0) % 64

/-- How far down from row `y0` the row `py` lies, around the edge (43 R184). -/
def rowOffset (y0 py : Nat) : Nat := (py + 32 - y0 % 32) % 32

theorem columnOffset_eq_iff {x0 px j : Nat} (h0 : x0 < 64) (hx : px < 64) (hj : j < 64) :
    columnOffset x0 px = j ↔ (x0 + j) % 64 = px := by
  unfold columnOffset
  omega

theorem rowOffset_eq_zero_iff {y0 py : Nat} (hy : py < 32) : rowOffset y0 py = 0 ↔ y0 % 32 = py := by
  unfold rowOffset
  omega

/-- The row offset from the next start row: one less, but around the edge on the start row itself. -/
theorem rowOffset_succ {y0 py : Nat} (hy : py < 32) :
    rowOffset (y0 + 1) py = if rowOffset y0 py = 0 then 31 else rowOffset y0 py - 1 := by
  unfold rowOffset
  split <;> omega

/-- A sprite column toggles its one pixel when its bit is set. -/
theorem Canvas.toggles_drawColumn (b : Byte) {x0 : Nat} (h0 : x0 < 64) (y0 : Nat) (c : Canvas) {j : Nat}
    (hj : j < 64) :
    c.Toggles (fun px py => decide (columnOffset x0 px = j) && decide (rowOffset y0 py = 0) && b.getLsbD (7 - j))
      (c.drawColumn b x0 y0 j) := by
  have hplace : ∀ px < 64, ∀ py < 32, pixelIndex (x0 + j) y0 = pixelIndex px py ↔
      columnOffset x0 px = j ∧ rowOffset y0 py = 0 := by
    intro px hx py hy
    rw [pixelIndex_inj, columnOffset_eq_iff h0 hx hj, rowOffset_eq_zero_iff hy, Nat.mod_eq_of_lt hx,
      Nat.mod_eq_of_lt hy]
  constructor
  · intro px hx py hy
    rw [Canvas.drawColumn_get, Bool.and_comm (b.getLsbD _)]
    simp only [hplace px hx py hy, Bool.decide_and]
  · rw [Canvas.drawColumn_collision, Bool.or_eq_true, Bool.and_eq_true]
    refine or_congr_right ⟨?_, ?_⟩
    · rintro ⟨hbit, hon⟩
      have hpx : (x0 + j) % 64 < 64 := Nat.mod_lt _ (by decide)
      have hpy : y0 % 32 < 32 := Nat.mod_lt _ (by decide)
      have hsame : pixelIndex (x0 + j) y0 = pixelIndex ((x0 + j) % 64) (y0 % 32) := by
        rw [pixelIndex_inj, Nat.mod_mod, Nat.mod_mod]
        exact ⟨rfl, rfl⟩
      obtain ⟨hcol, hrow⟩ := (hplace _ hpx _ hpy).1 hsame
      exact ⟨_, hpx, _, hpy, hsame ▸ hon, by simp [hcol, hrow, hbit]⟩
    · rintro ⟨px, hx, py, hy, hon, hcov⟩
      simp only [Bool.and_eq_true, decide_eq_true_eq] at hcov
      obtain ⟨hat, hbit⟩ := hcov
      exact ⟨hbit, (hplace px hx py hy).2 hat ▸ hon⟩

/-! ### One row -/

/-- The first `m` columns of a sprite row. -/
theorem Canvas.toggles_drawColumns (b : Byte) {x0 : Nat} (h0 : x0 < 64) (y0 : Nat) (c : Canvas) {m : Nat}
    (hm : m ≤ 64) :
    c.Toggles
      (fun px py => decide (rowOffset y0 py = 0) && decide (columnOffset x0 px < m) &&
        b.getLsbD (7 - columnOffset x0 px))
      ((List.range m).foldl (Canvas.drawColumn b x0 y0) c) := by
  induction m with
  | zero => exact (Canvas.Toggles.none c).congr (by simp)
  | succ m ih =>
    rw [List.range_succ, List.foldl_append, List.foldl_cons, List.foldl_nil]
    have hcol := Canvas.toggles_drawColumn b h0 y0 ((List.range m).foldl (Canvas.drawColumn b x0 y0) c)
      (show m < 64 by omega)
    refine ((ih (by omega)).trans hcol fun px _ py _ hS => ?_).congr fun px _ py _ => ?_
    · simp only [Bool.and_eq_true, decide_eq_true_eq] at hS
      simp [show ¬ columnOffset x0 px = m by omega]
    · rcases Nat.lt_trichotomy (columnOffset x0 px) m with hlt | heq | hgt
      · simp [hlt, show ¬ columnOffset x0 px = m by omega, show columnOffset x0 px < m + 1 by omega]
      · simp [heq]
      · simp [show ¬ columnOffset x0 px < m by omega, show ¬ columnOffset x0 px = m by omega,
          show ¬ columnOffset x0 px < m + 1 by omega]

/-! ### The whole sprite -/

/-- The sprite rows `bs` drawn from `(x0, y0)` have a set bit that lands on pixel `(px, py)`. -/
def spriteBit (bs : List Byte) (x0 y0 px py : Nat) : Bool :=
  decide (columnOffset x0 px < 8) && ((bs[rowOffset y0 py]?).getD 0).getLsbD (7 - columnOffset x0 px)

/-- The rows of a sprite are on different rows of the grid, as they are at most 32. -/
theorem Canvas.toggles_drawRows (bs : List Byte) {x0 : Nat} (h0 : x0 < 64) (y0 : Nat) (c : Canvas)
    (hlen : bs.length ≤ 31) : c.Toggles (spriteBit bs x0 y0) (Canvas.drawRows bs x0 y0 c) := by
  induction bs generalizing y0 c with
  | nil => exact (Canvas.Toggles.none c).congr (by simp [spriteBit])
  | cons b bs ih =>
    rw [List.length_cons] at hlen
    have hlast : bs[31]? = none := List.getElem?_eq_none (by omega)
    have hrest := ih (y0 + 1) (c.drawRow b x0 y0) (by omega)
    refine ((Canvas.toggles_drawColumns b h0 y0 c (m := 8) (by omega)).trans hrest fun px _ py hy hS => ?_).congr
      fun px _ py hy => ?_
    · simp only [Bool.and_eq_true, decide_eq_true_eq] at hS
      obtain ⟨⟨hrow, -⟩, -⟩ := hS
      simp [spriteBit, rowOffset_succ hy, hrow, hlast]
    · rcases hrow : rowOffset y0 py with _ | r
      · simp [spriteBit, rowOffset_succ hy, hrow, hlast]
      · simp [spriteBit, rowOffset_succ hy, hrow]

theorem spriteCovers_eq (s : State) (x y : Reg) (n : BitVec 4) (px py : Nat) :
    SpriteCovers s x y n px py =
      (decide (rowOffset (s.spriteY y) py < n.toNat) && decide (columnOffset (s.spriteX x) px < 8) &&
        (s.ram.read (s.base + rowOffset (s.spriteY y) py)).getLsbD (7 - columnOffset (s.spriteX x) px)) := by
  have hy0 : s.spriteY y % 32 = s.spriteY y := Nat.mod_mod _ _
  rw [rowOffset, hy0]
  rfl

/-- A draw toggles the pixels that the sprite covers. -/
theorem State.toggles_drawn (s : State) (x y : Reg) (n : BitVec 4) :
    Canvas.Toggles (SpriteCovers s x y n) ⟨s.fb, false⟩ (s.drawn x y n) := by
  have h0 : s.spriteX x < 64 := Nat.mod_lt _ (by decide)
  have hn := n.isLt
  refine (Canvas.toggles_drawRows _ h0 _ _ (by rw [Memory.readBytes_length]; omega)).congr fun px _ py _ => ?_
  rw [spriteCovers_eq, spriteBit, Memory.readBytes_get?]
  split
  next hr => simp [hr]
  next hr => simp [hr]

/-! ### DRAW -/

/-- With its sprite in RAM, or no sprite at all, `DRAW` writes the framebuffer, then the flag, and goes on (43 R182). -/
theorem exec_draw_inside (x y : Reg) {n : BitVec 4} {s : State}
    (h : n.toNat = 0 ∨ s.base + n.toNat ≤ Config.ramSize) :
    exec (.draw x y n) s = .next
      ((s.setFb (s.drawn x y n).fb).setReg flagReg (flagOf (s.drawn x y n).collision)).advance :=
  s.complete_checked _ h

/-- With a sprite byte past RAM, `DRAW` only latches its fault (43 R182, 60 R212). -/
theorem exec_draw_outside (x y : Reg) {n : BitVec 4} {s : State}
    (h : ¬ (n.toNat = 0 ∨ s.base + n.toNat ≤ Config.ramSize)) :
    exec (.draw x y n) s = .next (s.raise (outOfRangeAt s.base)) :=
  s.complete_unchecked _ h

theorem State.changesOnly_setFb_setReg_advance (s : State) (p : Pixels) (x : Reg) (b : Byte) :
    ChangesOnly (fun q => q = .fb ∨ q = .v x ∨ q = .pc) s ((s.setFb p).setReg x b).advance :=
  ((s.changesOnly_setFb p).mono fun _ => .inl).trans
    (((s.setFb p).changesOnly_setReg_advance x b).mono fun _ => .inr)

theorem State.pixel_eq (s : State) {px py : Nat} (hx : px < 64) (hy : py < 32) :
    s.pixel px py = fbGet s.fb (pixelIndex px py) := by
  rw [pixelIndex_of_lt hx hy, State.pixel]

theorem flagOf_eq_one_iff (c : Bool) : flagOf c = 1 ↔ c = true := by cases c <;> decide

/-- A draw that does not fault: the covered pixels are toggled, and the flag tells whether one of them was on. -/
theorem exec_draw_toggles (x y : Reg) {n : BitVec 4} {s : State}
    (h : n.toNat = 0 ∨ s.base + n.toNat ≤ Config.ramSize) :
    ∃ t, exec (.draw x y n) s = .next t ∧
      (∀ px < 64, ∀ py < 32, t.pixel px py = (s.pixel px py ^^ SpriteCovers s x y n px py)) ∧
      (t.reg flagReg = 0 ∨ t.reg flagReg = 1) ∧
      (t.reg flagReg = 1 ↔ ∃ px < 64, ∃ py < 32, s.pixel px py = true ∧ SpriteCovers s x y n px py = true) ∧
      t.pc = s.pc + 2 ∧ ChangesOnly (fun p => p = .fb ∨ p = .v flagReg ∨ p = .pc) s t := by
  obtain ⟨hget, hcol⟩ := s.toggles_drawn x y n
  refine ⟨_, exec_draw_inside x y h, fun px hx py hy => ?_, ?_, ?_, rfl, s.changesOnly_setFb_setReg_advance _ _ _⟩
  · rw [State.pixel_eq _ hx hy, State.pixel_eq _ hx hy]
    exact hget px hx py hy
  · simpa using flagOf_eq (s.drawn x y n).collision
  · rw [State.advance_reg, State.setReg_reg, if_pos rfl, flagOf_eq_one_iff, hcol]
    constructor
    · rintro (hoff | ⟨px, hx, py, hy, hon, hcov⟩)
      · cases hoff
      · exact ⟨px, hx, py, hy, (s.pixel_eq hx hy).trans hon, hcov⟩
    · rintro ⟨px, hx, py, hy, hon, hcov⟩
      exact .inr ⟨px, hx, py, hy, (s.pixel_eq hx hy).symm.trans hon, hcov⟩

/-- Settles O51: with the sprite in RAM the draw toggles what the sprite covers; otherwise its range check fails before
anything is written. -/
theorem drawTogglesSpritePixels : Obligations.DrawTogglesSpritePixels := by
  intro x y n s
  refine ⟨exec_draw_toggles x y, fun hn hpast => ?_⟩
  have hout : ¬ (n.toNat = 0 ∨ s.i.toNat + n.toNat ≤ 4096) := by omega
  exact exec_draw_outside x y hout

/-! ### Drawing twice -/

/-- Framebuffers with the same pixels are equal. -/
theorem fb_ext {p q : Pixels} (h : ∀ px < 64, ∀ py < 32, fbGet p (pixelIndex px py) = fbGet q (pixelIndex px py)) :
    p = q := by
  refine Vector.ext fun r hr => BitVec.eq_of_getLsbD_eq fun c hc => ?_
  have hrow : (r * 64 + c) / 64 = r := by omega
  have hcol : (r * 64 + c) % 64 = c := by omega
  have hpixel := h c hc r hr
  rwa [pixelIndex_of_lt hc hr, fbGet, fbGet, hrow, hcol, Vector.getElem?_eq_getElem hr, Vector.getElem?_eq_getElem hr]
    at hpixel

/-- A sprite covers the same pixels in two states that agree on its coordinates, on `I` and on RAM. -/
theorem spriteCovers_congr {s t : State} {x y : Reg} (n : BitVec 4) (hx : t.reg x = s.reg x) (hy : t.reg y = s.reg y)
    (hi : t.i = s.i) (hram : ∀ a, t.ram.read a = s.ram.read a) : SpriteCovers t x y n = SpriteCovers s x y n := by
  have hspriteX : t.spriteX x = s.spriteX x := by rw [State.spriteX, hx, State.spriteX]
  have hspriteY : t.spriteY y = s.spriteY y := by rw [State.spriteY, hy, State.spriteY]
  have hbase : t.base = s.base := by rw [State.base, hi, State.base]
  funext px py
  rw [spriteCovers_eq, spriteCovers_eq, hspriteX, hspriteY, hbase, hram]

/-- Settles O52: the second draw covers the same pixels as the first, so it toggles each of them back, and finds on
those that were off before. -/
theorem drawingTwiceRestoresDisplay : Obligations.DrawingTwiceRestoresDisplay := by
  intro x y n s hx hy hfit
  obtain ⟨t, hexec, hpix, -, -, -, hframe⟩ := exec_draw_toggles x y hfit
  have hi : t.i = s.i := hframe .i (by simp)
  have hregx : t.reg x = s.reg x := hframe (.v x) (by simpa using hx)
  have hregy : t.reg y = s.reg y := hframe (.v y) (by simpa using hy)
  have hcovers := spriteCovers_congr n hregx hregy hi fun a => hframe (.ram a) (by simp)
  have hfit' : n.toNat = 0 ∨ t.i.toNat + n.toNat ≤ 4096 := hi ▸ hfit
  obtain ⟨u, hexec', hpix', -, hflag', -, -⟩ := exec_draw_toggles x y hfit'
  rw [hcovers] at hpix' hflag'
  refine ⟨t, u, hexec, hexec', fb_ext fun px hpx py hpy => ?_, hflag'.trans ?_⟩
  · rw [← State.pixel_eq _ hpx hpy, ← State.pixel_eq _ hpx hpy, hpix' px hpx py hpy, hpix px hpx py hpy,
      Bool.xor_assoc, Bool.xor_self, Bool.xor_false]
  · have hwas : ∀ px < 64, ∀ py < 32, SpriteCovers s x y n px py = true →
        (t.pixel px py = true ↔ s.pixel px py = false) := by
      intro px hpx py hpy hcov
      rw [hpix px hpx py hpy, hcov, Bool.xor_true, Bool.not_eq_true']
    constructor
    · rintro ⟨px, hpx, py, hpy, hon, hcov⟩
      exact ⟨px, hpx, py, hpy, (hwas px hpx py hpy hcov).1 hon, hcov⟩
    · rintro ⟨px, hpx, py, hpy, hoff, hcov⟩
      exact ⟨px, hpx, py, hpy, (hwas px hpx py hpy hcov).2 hoff, hcov⟩

end Sys2Proof.Machine
end

section
/-!
PROOFS. Everything an instruction can do (10_state R46): when it faults, and what it writes when it does not.
-/

namespace Sys2Proof.Machine

/-! ### Faulting -/

/-- The fault that an instruction raises, if it raises one: `RETURN` and `CALL` by the depth of the stack, the others by
the range that they access through `I` (60 R210). -/
def faultOf (i : Instr) (s : State) : Option FaultRecord :=
  match i with
  | .ret => if s.stack = [] then some ⟨.stackUnderflow, 0⟩ else none
  | .call _ => if Config.stackDepth ≤ s.sp then some ⟨.stackOverflow, 0⟩ else none
  | i => if dataLength i = 0 ∨ s.base + dataLength i ≤ Config.ramSize then none else some (outOfRangeAt s.base)

theorem faultOf_ret_eq_none {s : State} (h : faultOf .ret s = none) : ∃ a l, s.stack = a :: l :=
  List.exists_cons_of_ne_nil fun hs => by simp [faultOf, hs] at h

theorem faultOf_call_eq_none {nnn : Addr12} {s : State} (h : faultOf (.call nnn) s = none) :
    s.sp < Config.stackDepth :=
  Nat.lt_of_not_le fun hs => by simp [faultOf, hs] at h

/-- An instruction that does not fault accesses bytes of RAM only. -/
theorem inRam_of_faultOf_eq_none {i : Instr} {s : State} (h : faultOf i s = none) :
    dataLength i = 0 ∨ s.base + dataLength i ≤ Config.ramSize := by
  cases i with
  | draw | bcd | regdump | regload => by_contra hout; simp [faultOf, hout] at h
  | _ => exact .inl rfl

theorem outOfRangeAt_proper (a : Word) : (outOfRangeAt a.toNat).Proper := by
  change Config.ramSize ≤ (outOfRangeAt a.toNat).info.toNat
  rw [outOfRangeAt_info]
  exact Nat.le_max_right _ _

theorem faultOf_proper {i : Instr} {s : State} {f : FaultRecord} (h : faultOf i s = some f) : f.Proper := by
  unfold faultOf at h
  split at h <;> split at h <;> cases h
  · rfl
  · rfl
  · exact outOfRangeAt_proper s.i

/-- A faulting instruction latches its fault and changes nothing else (60 R212). -/
theorem exec_of_faultOf_eq_some {i : Instr} {s : State} {f : FaultRecord} (h : faultOf i s = some f) :
    exec i s = .next (s.raise f) := by
  cases i with
  | ret =>
    obtain ⟨hs, hf⟩ : s.stack = [] ∧ _ = f := by simpa [faultOf] using h
    exact hf ▸ exec_ret_of_stack_nil hs
  | call nnn =>
    obtain ⟨hs, hf⟩ : Config.stackDepth ≤ s.sp ∧ _ = f := by simpa [faultOf] using h
    exact hf ▸ exec_call_of_full nnn hs
  | draw | bcd | regdump | regload =>
    simp only [faultOf, ite_eq_iff, reduceCtorEq, and_false, false_or, Option.some.injEq] at h
    obtain ⟨hout, rfl⟩ := h
    exact s.complete_unchecked _ hout
  | _ => simp [faultOf, dataLength] at h

/-- Every instruction answers a next state: none is refused, and a fault is latched (60 R212). -/
theorem exec_total (i : Instr) (s : State) : ∃ t, exec i s = .next t := by
  have checked : ∀ r : Except FaultRecord State, ∃ t, s.complete r = .next t := by
    rintro (f | t)
    · exact ⟨_, s.complete_error f⟩
    · exact ⟨t, s.complete_ok t⟩
  cases i with
  | ret | call | draw | bcd | regdump | regload => exact checked _
  | _ => exact ⟨_, rfl⟩

/-! ### What an instruction writes -/

/-- The data range of `BCD` in RAM, and `PC`. -/
theorem State.changesOnly_bcd (s : State) (x : Reg) :
    ChangesOnly (fun p => (∃ a, p = .ram a ∧ InDataRange s 3 a) ∨ p = .pc) s
      (s.setRam (s.ram.writeBytes s.base (bcdDigits (s.reg x)))).advance :=
  ((s.changesOnly_writeBytes s.base (bcdDigits (s.reg x))).mono fun _ => .inl).trans
    ((State.changesOnly_advance _).mono fun _ => .inr)

/-- An instruction that does not fault changes only the parts of its row of the access matrix (10_state R46). -/
theorem exec_changes {i : Instr} {s t : State} (hf : faultOf i s = none) (h : exec i s = .next t) :
    ChangesOnly (Writes i s) s t := by
  have hin := inRam_of_faultOf_eq_none hf
  cases i
  case ret =>
    obtain ⟨a, l, hs⟩ := faultOf_ret_eq_none hf
    obtain rfl := next_unique (exec_ret_of_stack_cons hs) h
    exact s.changesOnly_setStack_setPc l a
  case call nnn =>
    obtain rfl := next_unique (exec_call_of_room nnn (faultOf_call_eq_none hf)) h
    exact s.changesOnly_setStack_setPc _ _
  case draw x y n =>
    obtain rfl := next_unique (exec_draw_inside x y hin) h
    exact s.changesOnly_setFb_setReg_advance _ _ _
  case bcd x =>
    obtain rfl := next_unique (s.complete_checked _ hin) h
    exact s.changesOnly_bcd x
  case regdump x =>
    obtain rfl := next_unique (s.complete_checked _ hin) h
    exact s.changesOnly_regdump x
  case regload x =>
    obtain rfl := next_unique (s.complete_checked _ hin) h
    exact s.changesOnly_regload x
  all_goals obtain rfl := Host.Outcome.next.inj h
  case clear => exact s.changesOnly_setFb_advance fbClear
  case jump | jumpV0 | seImm | sneImm | seReg | sneReg | skp | sknp => exact s.changesOnly_setPc _
  case loadImm | addImm | loadReg | orReg | andReg | xorReg | loadFromDt => exact s.changesOnly_setReg_advance _ _
  case addReg | sub | shr | subn | shl => exact s.changesOnly_setResultFlag_advance _ _ _
  case loadI | addI | loadFont => exact s.changesOnly_setI_advance _
  case rand => exact s.changesOnly_setReg_countDraw_advance _ _
  case loadKey => exact s.changesOnly_enterWait _ s.key
  case loadDt => exact s.changesOnly_setDt_advance _
  case loadSt => exact s.changesOnly_setSt_advance _

/-- Everything an instruction can do: writes to its row of the access matrix, or a proper fault and nothing else. -/
theorem exec_cases {i : Instr} {s t : State} (h : exec i s = .next t) :
    ChangesOnly (Writes i s) s t ∨ ∃ f : FaultRecord, f.Proper ∧ t = s.raise f := by
  rcases hf : faultOf i s with _ | f
  · exact .inl (exec_changes hf h)
  · exact .inr ⟨f, faultOf_proper hf, next_unique (exec_of_faultOf_eq_some hf) h⟩

/-- Settles O27. The canonical form is not needed: no store changes a byte outside its range. -/
theorem instructionsWriteOnlyTheirRow : Obligations.InstructionsWriteOnlyTheirRow :=
  fun _ _ _ _ h => (exec_cases h).imp_right fun ⟨f, _, ht⟩ => ⟨f, ht⟩

end Sys2Proof.Machine
end

section
/-!
PROOFS. What an instruction reads (10_state R46). Two runs make the same writes, of values computed from parts on which
their states agree; so for each kind of write there is one lemma that the parts written agree afterwards.
-/

namespace Sys2Proof.Machine

/-- The parts in `w` hold the same in both states. -/
def AgreeOn (w : Part → Prop) (s t : State) : Prop := ∀ p, w p → p.same s t

/-! ### The same write in two states -/

section
variable {s t : State}

theorem agreeOn_setPc (a : Word) : AgreeOn (fun p => p = .pc) (s.setPc a) (t.setPc a) := by
  rintro p rfl
  rfl

theorem agreeOn_setStack_setPc (l : List Word) (a : Word) :
    AgreeOn (fun p => p = .stack ∨ p = .pc) ((s.setStack l).setPc a) ((t.setStack l).setPc a) := by
  rintro p (rfl | rfl) <;> rfl

theorem same_advance {p : Part} (h : p.same s t) : p.same s.advance t.advance := by
  cases p with
  | pc => exact congrArg (· + 2) h
  | _ => exact h

theorem same_setReg (x : Reg) (b : Byte) : (Part.v x).same (s.setReg x b) (t.setReg x b) := by
  change (t.setReg x b).reg x = (s.setReg x b).reg x
  simp

theorem same_setReg_of_same {p : Part} (x : Reg) (b : Byte) (h : p.same s t) :
    p.same (s.setReg x b) (t.setReg x b) := by
  cases p with
  | v r =>
    change (t.setReg x b).reg r = (s.setReg x b).reg r
    rw [State.setReg_reg, State.setReg_reg, show t.reg r = s.reg r from h]
  | _ => exact h

variable (hpc : t.pc = s.pc)
include hpc

theorem agreeOn_skipIf (c : Bool) : AgreeOn (fun p => p = .pc) (s.skipIf c) (t.skipIf c) := by
  rintro p rfl
  change (if c then t.pc + 4 else t.pc + 2) = if c then s.pc + 4 else s.pc + 2
  rw [hpc]

theorem agreeOn_setReg_advance (x : Reg) (b : Byte) :
    AgreeOn (fun p => p = .v x ∨ p = .pc) (s.setReg x b).advance (t.setReg x b).advance := by
  rintro p (rfl | rfl)
  · exact same_advance (same_setReg x b)
  · exact same_advance hpc

theorem agreeOn_setResultFlag_advance (x : Reg) (a f : Byte) :
    AgreeOn (fun p => p = .v x ∨ p = .v flagReg ∨ p = .pc) (s.setResultFlag x a f).advance
      (t.setResultFlag x a f).advance := by
  rintro p (rfl | rfl | rfl)
  · exact same_advance (same_setReg_of_same _ _ (same_setReg x a))
  · exact same_advance (same_setReg _ f)
  · exact same_advance hpc

theorem agreeOn_setI_advance (a : Word) :
    AgreeOn (fun p => p = .i ∨ p = .pc) (s.setI a).advance (t.setI a).advance := by
  rintro p (rfl | rfl)
  · rfl
  · exact same_advance hpc

theorem agreeOn_setFb_advance (q : Pixels) :
    AgreeOn (fun p => p = .fb ∨ p = .pc) (s.setFb q).advance (t.setFb q).advance := by
  rintro p (rfl | rfl)
  · rfl
  · exact same_advance hpc

theorem agreeOn_setFb_setReg_advance (q : Pixels) (x : Reg) (b : Byte) :
    AgreeOn (fun p => p = .fb ∨ p = .v x ∨ p = .pc) ((s.setFb q).setReg x b).advance
      ((t.setFb q).setReg x b).advance := by
  rintro p (rfl | rfl | rfl)
  · rfl
  · exact same_advance (same_setReg x b)
  · exact same_advance hpc

theorem agreeOn_setDt_advance (b : Byte) :
    AgreeOn (fun p => p = .dt ∨ p = .pc) (s.setDt b).advance (t.setDt b).advance := by
  rintro p (rfl | rfl)
  · rfl
  · exact same_advance hpc

theorem agreeOn_setSt_advance (b : Byte) :
    AgreeOn (fun p => p = .st ∨ p = .pc) (s.setSt b).advance (t.setSt b).advance := by
  rintro p (rfl | rfl)
  · rfl
  · exact same_advance hpc

theorem agreeOn_setReg_countDraw_advance (x : Reg) (b : Byte) (hdraws : t.draws = s.draws) :
    AgreeOn (fun p => p = .v x ∨ p = .draws ∨ p = .pc) (s.setReg x b).countDraw.advance
      (t.setReg x b).countDraw.advance := by
  rintro p (rfl | rfl | rfl)
  · exact same_advance (same_setReg x b)
  · exact congrArg (· + 1) hdraws
  · exact same_advance hpc

end

theorem agreeOn_enterWait (s t : State) (x : Reg) (k : Word) :
    AgreeOn (fun p => p = .wait ∨ p = .wreg ∨ p = .kprev) (((s.setWait true).setWreg x).setKprev k)
      (((t.setWait true).setWreg x).setKprev k) := by
  rintro p (rfl | rfl | rfl) <;> rfl

/-- The same bytes stored at the same place of RAM read the same there, whatever RAM held. -/
theorem read_writeBytes_agree {m m' : Memory} (hw : m.wf) (hw' : m'.wf) {a : Nat} {bs : List Byte}
    (hfit : a + bs.length ≤ Config.ramSize) {b : Nat} (hb : a ≤ b ∧ b < a + bs.length) :
    (m'.writeBytes a bs).read b = (m.writeBytes a bs).read b := by
  obtain ⟨k, rfl⟩ := Nat.exists_eq_add_of_le hb.1
  have hk : bs[k]? = some bs[k] := List.getElem?_eq_getElem (by omega)
  rw [Memory.read_writeBytes_add hw' hfit hk, Memory.read_writeBytes_add hw hfit hk]

/-! ### Values computed from what both states share -/

theorem State.drawn_congr {s t : State} {x y : Reg} {n : BitVec 4} (hx : t.reg x = s.reg x) (hy : t.reg y = s.reg y)
    (hi : t.i = s.i) (hram : ∀ a, InDataRange s n.toNat a → t.ram.read a = s.ram.read a) (hfb : t.fb = s.fb) :
    t.drawn x y n = s.drawn x y n := by
  have hbase : t.base = s.base := by rw [State.base, hi, State.base]
  have hbytes : t.ram.readBytes s.base n.toNat = s.ram.readBytes s.base n.toNat :=
    List.map_congr_left fun k hk =>
      hram _ ⟨Nat.le_add_right _ _, Nat.add_lt_add_left (List.mem_range.1 hk) _⟩
  simp only [State.drawn, State.spriteX, State.spriteY, hbase, hbytes, hx, hy, hfb]

theorem State.bulkRegs_congr {s t : State} {x : Reg} (hv : ∀ r : Reg, r.toNat ≤ x.toNat → t.reg r = s.reg r) :
    t.bulkRegs x = s.bulkRegs x := by
  refine List.map_congr_left fun k hk => hv _ ?_
  rw [BitVec.toNat_ofNat]
  exact (Nat.mod_le _ _).trans (lt_bulkCount_iff.1 (List.mem_range.1 hk))

theorem State.bulkIndex_congr {s t : State} (x : Reg) (hi : t.i = s.i) (hcfg : t.cfg = s.cfg) :
    t.bulkIndex x = s.bulkIndex x := by
  simp only [State.bulkIndex, hi, hcfg]

theorem State.keyDown_congr {s t : State} (k : BitVec 4) (hkey : t.key = s.key) : t.keyDown k = s.keyDown k := by
  rw [State.keyDown, hkey, State.keyDown]

/-! ### Two runs -/

section
variable {i : Instr} {s t : State} (hread : AgreeOn (Reads i s) s t)
include hread

theorem faultOf_congr : faultOf i t = faultOf i s := by
  have hbase : t.i = s.i → t.base = s.base := fun hi => by rw [State.base, hi, State.base]
  cases i with
  | ret => rw [faultOf, faultOf, show t.stack = s.stack from hread .stack (.inl rfl)]
  | call nnn => rw [faultOf, faultOf, State.sp, State.sp, show t.stack = s.stack from hread .stack (.inl rfl)]
  | draw | bcd | regdump | regload => simp only [faultOf, hbase (hread .i (by simp [Reads]))]
  | _ => rfl

/-- The row itself is the same for both states: what decides a cell marked (W) is read. -/
theorem writes_congr : Writes i t = Writes i s := by
  funext p
  cases i with
  | bcd x =>
    have hi : t.i = s.i := hread .i (by simp [Reads])
    simp only [Writes, InDataRange, State.base, hi]
  | regdump x =>
    have hi : t.i = s.i := hread .i (by simp [Reads])
    have hcfg : t.cfg = s.cfg := hread .cfg (by simp [Reads])
    simp only [Writes, InDataRange, State.base, hi, hcfg]
  | regload x =>
    have hcfg : t.cfg = s.cfg := hread .cfg (by simp [Reads])
    simp only [Writes, hcfg]
  | _ => rfl

/-- Two runs that do not fault write the same into every part of the row: each value written is computed from parts
that the row reads. -/
theorem exec_agrees {s' t' : State} (hws : s.ram.wf) (hwt : t.ram.wf) (hf : faultOf i s = none)
    (hs : exec i s = .next s') (ht : exec i t = .next t') : AgreeOn (Writes i s) s' t' := by
  have hpc : t.pc = s.pc := hread .pc (by cases i <;> simp [Reads])
  have hv : ∀ r, Reads i s (.v r) → t.reg r = s.reg r := fun r => hread (.v r)
  have hi : Reads i s .i → t.i = s.i := hread .i
  have hbase : Reads i s .i → t.base = s.base := fun h => congrArg BitVec.toNat (hi h)
  have hin := inRam_of_faultOf_eq_none hf
  have hft := (faultOf_congr hread).trans hf
  have hin' := inRam_of_faultOf_eq_none hft
  cases i
  case ret =>
    have hstack : t.stack = s.stack := hread .stack (.inl rfl)
    obtain ⟨a, l, hl⟩ := faultOf_ret_eq_none hf
    obtain rfl := next_unique (exec_ret_of_stack_cons hl) hs
    obtain rfl := next_unique (exec_ret_of_stack_cons (hstack.trans hl)) ht
    exact agreeOn_setStack_setPc l a
  case call nnn =>
    have hstack : t.stack = s.stack := hread .stack (.inl rfl)
    obtain rfl := next_unique (exec_call_of_room nnn (faultOf_call_eq_none hf)) hs
    obtain rfl := next_unique (exec_call_of_room nnn (faultOf_call_eq_none hft)) ht
    rw [hstack, hpc]
    exact agreeOn_setStack_setPc _ _
  case draw x y n =>
    have hdrawn : t.drawn x y n = s.drawn x y n :=
      State.drawn_congr (hv x (by simp [Reads])) (hv y (by simp [Reads])) (hi (by simp [Reads]))
        (fun a ha => hread (.ram a) (by simp [Reads, ha])) (hread .fb (by simp [Reads]))
    obtain rfl := next_unique (exec_draw_inside x y hin) hs
    obtain rfl := next_unique (exec_draw_inside x y hin') ht
    rw [hdrawn]
    exact agreeOn_setFb_setReg_advance hpc _ _ _
  case bcd x =>
    have hfit : s.base + 3 ≤ Config.ramSize := hin.resolve_left (Nat.succ_ne_zero 2)
    obtain rfl := next_unique (s.complete_checked _ hin) hs
    obtain rfl := next_unique (t.complete_checked _ hin') ht
    rw [hbase (.inr (.inl rfl)), hv x (.inl rfl)]
    rintro p (⟨a, rfl, ha⟩ | rfl)
    · exact read_writeBytes_agree hws hwt hfit ha
    · exact same_advance hpc
  case regdump x =>
    have hfit : s.base + (s.bulkRegs x).length ≤ Config.ramSize := by
      rw [State.bulkRegs_length]
      exact hin.resolve_left (Nat.succ_ne_zero _)
    obtain rfl := next_unique (s.complete_checked _ hin) hs
    obtain rfl := next_unique (t.complete_checked _ hin') ht
    rw [hbase (.inr (.inl rfl)), State.bulkRegs_congr fun r hr => hv r (.inl ⟨r, rfl, hr⟩),
      State.bulkIndex_congr x (hi (.inr (.inl rfl))) (hread .cfg (.inr (.inr (.inl rfl))))]
    rintro p (⟨a, rfl, ha⟩ | ⟨rfl, -⟩ | rfl)
    · exact read_writeBytes_agree hws hwt hfit (by rwa [State.bulkRegs_length])
    · rfl
    · exact same_advance hpc
  case regload x =>
    obtain rfl := next_unique (s.complete_checked _ hin) hs
    obtain rfl := next_unique (t.complete_checked _ hin') ht
    rw [State.bulkIndex_congr x (hi (.inr (.inl rfl))) (hread .cfg (.inr (.inr (.inl rfl))))]
    rintro p (⟨r, rfl, hr⟩ | ⟨rfl, -⟩ | rfl)
    · change (t.bulkLoaded x)[r.toNat] = (s.bulkLoaded x)[r.toNat]
      rw [State.bulkLoaded_of_le t hr, State.bulkLoaded_of_le s hr, hbase (.inr (.inl rfl))]
      exact hread (.ram _) (.inl ⟨_, rfl, Nat.le_add_right _ _, Nat.add_lt_add_left (lt_bulkCount_iff.2 hr) _⟩)
    · rfl
    · exact same_advance hpc
  all_goals
    obtain rfl := Host.Outcome.next.inj hs
    obtain rfl := Host.Outcome.next.inj ht
  case clear =>
    exact agreeOn_setFb_advance hpc _
  case jump =>
    exact agreeOn_setPc _
  case jumpV0 nnn =>
    rw [hv 0 (.inl rfl)]
    exact agreeOn_setPc _
  case seImm x nn | sneImm x nn =>
    rw [hv x (.inl rfl)]
    exact agreeOn_skipIf hpc _
  case seReg x y | sneReg x y =>
    rw [hv x (.inl rfl), hv y (.inr (.inl rfl))]
    exact agreeOn_skipIf hpc _
  case skp x | sknp x =>
    have hkey : t.key = s.key := hread .key (.inr (.inl rfl))
    rw [hv x (.inl rfl), State.keyDown_congr _ hkey]
    exact agreeOn_skipIf hpc _
  case loadImm x nn =>
    exact agreeOn_setReg_advance hpc x _
  case addImm x nn =>
    rw [hv x (.inl rfl)]
    exact agreeOn_setReg_advance hpc x _
  case loadReg x y =>
    rw [hv y (.inl rfl)]
    exact agreeOn_setReg_advance hpc x _
  case orReg x y | andReg x y | xorReg x y =>
    rw [hv x (.inl rfl), hv y (.inr (.inl rfl))]
    exact agreeOn_setReg_advance hpc x _
  case loadFromDt x =>
    have hdt : t.dt = s.dt := hread .dt (.inl rfl)
    rw [hdt]
    exact agreeOn_setReg_advance hpc x _
  case addReg x y | sub x y | subn x y =>
    rw [hv x (.inl rfl), hv y (.inr (.inl rfl))]
    exact agreeOn_setResultFlag_advance hpc x _ _
  case shr x y | shl x y =>
    rw [hv y (.inl rfl)]
    exact agreeOn_setResultFlag_advance hpc x _ _
  case loadI =>
    exact agreeOn_setI_advance hpc _
  case addI x =>
    rw [hv x (.inl rfl), hbase (.inr (.inl rfl))]
    exact agreeOn_setI_advance hpc _
  case loadFont x =>
    rw [hv x (.inl rfl)]
    exact agreeOn_setI_advance hpc _
  case rand x nn =>
    have hdraws : t.draws = s.draws := hread .draws (.inl rfl)
    rw [hdraws]
    exact agreeOn_setReg_countDraw_advance hpc x _ hdraws
  case loadKey x =>
    have hkey : t.key = s.key := hread .key (.inl rfl)
    rw [hkey]
    exact agreeOn_enterWait s t x _
  case loadDt x =>
    rw [hv x (.inl rfl)]
    exact agreeOn_setDt_advance hpc _
  case loadSt x =>
    rw [hv x (.inl rfl)]
    exact agreeOn_setSt_advance hpc _

end

/-- Settles O28: the two states fault alike; when they do not fault, each writes only its row, which is the same row,
and what they write agrees. -/
theorem instructionsReadOnlyTheirRow : Obligations.InstructionsReadOnlyTheirRow := by
  intro i s t s' t' hws hwt hread hs ht
  have hcongr := faultOf_congr hread
  rcases hf : faultOf i s with _ | f
  · have hft := hcongr.trans hf
    have hframe := exec_changes hft ht
    rw [writes_congr hread] at hframe
    exact .inr ⟨exec_changes hf hs, hframe, exec_agrees hread hws hwt hf hs ht⟩
  · obtain rfl := next_unique (exec_of_faultOf_eq_some hf) hs
    obtain rfl := next_unique (exec_of_faultOf_eq_some (hcongr.trans hf)) ht
    exact .inl ⟨f, rfl, rfl⟩

end Sys2Proof.Machine
end

section
/-!
PROOFS. What a `Cycle` runs, and when it faults (40 R120, 60 R212, R217).
-/

namespace Sys2Proof.Machine

/-! ### The fetched word -/

/-- A running machine runs the instruction that the word at `PC` decodes to (40 R120). -/
theorem State.cycle_of_decode {s : State} {i : Instr} (hr : Running s) (hpc : s.pc.toNat + 2 ≤ Config.ramSize)
    (hdec : decode s.wordAtPc = .op i) : s.cycle = exec i s := by
  obtain ⟨hfault, hwait⟩ := hr
  rw [s.cycle_fetched hfault hwait hpc, State.runWord, hdec]

/-- A running machine latches `DecodeError` when the word at `PC` is illegal (40 R120, 30_encoding R102). -/
theorem State.cycle_of_decodeError {s : State} (hr : Running s) (hpc : s.pc.toNat + 2 ≤ Config.ramSize)
    (hdec : decode s.wordAtPc = .decodeError s.wordAtPc) : s.cycle = .next (s.raise ⟨.decodeError, s.wordAtPc⟩) := by
  obtain ⟨hfault, hwait⟩ := hr
  rw [s.cycle_fetched hfault hwait hpc, State.runWord, hdec]

theorem CycleNext.step_of_decode {s : State} {rest : List Event} {i : Instr} (hc : CycleNext s rest) (hr : Running s)
    (hpc : s.pc.toNat + 2 ≤ Config.ramSize) (hdec : decode s.wordAtPc = .op i) :
    step s = exec i (s.setPending rest) :=
  hc.step_eq.trans (State.cycle_of_decode (s := s.setPending rest) hr hpc hdec)

/-- Settles O6: the fetch succeeds and reads the word that decodes to the instruction. -/
theorem stepRunsDecodedInstruction : Obligations.StepRunsDecodedInstruction :=
  fun _ _ _ hc hr hpc hdec => hc.step_of_decode hr hpc hdec

/-- Settles O12: the placed state has a `Cycle` next, runs, and has the word at its `PC`. -/
theorem placedWordIsRunNext : Obligations.PlacedWordIsRunNext := by
  intro s w i hw hdec
  have hc : CycleNext (s.withFetchWord 16 w.toNat) [] := .inl ⟨rfl, rfl⟩
  exact hc.step_of_decode ⟨rfl, rfl⟩ s.fetchPoint_le ((s.withFetchWord_wordAtPc hw w).symm ▸ hdec)

theorem decode_error_of_no_row {w : Word} (h : ∀ r ∈ opcodeTable, w &&& r.mask ≠ r.pattern) :
    decode w = .decodeError w := by
  refine (decode_op_or_error w).resolve_left ?_
  rintro ⟨i, hi⟩
  obtain ⟨r, hr, -, hfits⟩ := fits_of_decode hi
  exact h r hr hfits

/-- Settles O9: a decoded word would be of some row. -/
theorem illegalWordFaults : Obligations.IllegalWordFaults := by
  intro s rest hc hr hpc hrows
  have hdec := decode_error_of_no_row hrows
  exact ⟨hdec, hc.step_eq.trans (State.cycle_of_decodeError (s := s.setPending rest) hr hpc hdec)⟩

/-! ### A next state always -/

theorem State.cycle_total (s : State) : ∃ t, s.cycle = .next t := by
  by_cases hfault : s.fault = none
  · rcases hwait : s.wait with _ | _
    · by_cases hpc : s.pc.toNat + 2 ≤ Config.ramSize
      · rcases decode_op_or_error s.wordAtPc with ⟨i, hi⟩ | he
        · rw [State.cycle_of_decode ⟨hfault, hwait⟩ hpc hi]
          exact exec_total i s
        · exact ⟨_, State.cycle_of_decodeError ⟨hfault, hwait⟩ hpc he⟩
      · exact ⟨_, s.cycle_unfetchable hfault hwait hpc⟩
    · exact ⟨_, s.cycle_waiting hfault hwait⟩
  · exact ⟨s, s.cycle_faulted (Option.isSome_iff_ne_none.2 hfault)⟩

/-- Settles O7: a `Cycle` answers a next state, by the instruction it runs or the fault it latches, and the other events
are next states outright. -/
theorem everyStepAnswersNextState : Obligations.EveryStepAnswersNextState := by
  intro s
  rcases hp : s.pending with _ | ⟨e, rest⟩
  · have hc : CycleNext s [] := .inl ⟨hp, rfl⟩
    rw [hc.step_eq]
    exact State.cycle_total _
  · rw [step_of_pending hp]
    cases e with
    | cycle => exact State.cycle_total _
    | _ => exact ⟨_, rfl⟩

/-! ### Faults -/

theorem not_writes_fault (i : Instr) (s : State) : ¬ Writes i s .fault := by
  cases i <;> simp [Writes]

/-- From a running state a `Cycle` latches no fault, or latches a proper one and changes nothing else (60 R212). -/
theorem State.cycle_precise {s t : State} (hr : Running s) (h : s.cycle = .next t) :
    t.fault = none ∨ ∃ f : FaultRecord, f.Proper ∧ t = s.raise f := by
  obtain ⟨hfault, hwait⟩ := hr
  rcases State.cycle_cases h with ⟨hf, -⟩ | ⟨-, hw, -⟩ | ⟨-, -, -, rfl⟩ | ⟨-, -, -, hdec, rfl⟩ | ⟨-, -, -, i, -, hexec⟩
  · simp [hfault] at hf
  · simp [hwait] at hw
  · exact .inr ⟨_, outOfRangeAt_proper s.pc, rfl⟩
  · exact .inr ⟨⟨.decodeError, s.wordAtPc⟩, (legal_eq_false_iff _).2 hdec, rfl⟩
  · refine (exec_cases hexec).imp_left fun hframe => ?_
    have hkept : t.fault = s.fault := hframe .fault (not_writes_fault i s)
    exact hkept.trans hfault

/-- Settles O11: the fetch and the decoder latch a fault on the state as it is, and an instruction that does not fault
has `FAULT` in no row. -/
theorem faultsArePrecise : Obligations.FaultsArePrecise := by
  intro s t rest hc hr h
  rw [hc.step_eq] at h
  refine (State.cycle_precise (s := s.setPending rest) hr h).imp_right ?_
  rintro ⟨f, -, rfl⟩
  exact ⟨f, rfl⟩

end Sys2Proof.Machine
end

section
/-!
PROOFS. The events that are not instructions (44 R195, 60 R230 to R233, 70 R250 to R254): what each writes.
-/

namespace Sys2Proof.Machine

theorem State.changesOnly_setPending (s : State) (l : List Event) :
    ChangesOnly (fun p => p = .pending) s (s.setPending l) := by
  intro p hp
  cases p with
  | pending => exact absurd rfl hp
  | _ => rfl

/-- What an event does with the schedule taken off, and the schedule. -/
theorem ChangesOnly.of_setPending {w : Part → Prop} {s t : State} {rest : List Event}
    (h : ChangesOnly w (s.setPending rest) t) : ChangesOnly (fun p => w p ∨ p = .pending) s t :=
  ((s.changesOnly_setPending rest).mono fun _ => .inr).trans (h.mono fun _ => .inl)

/-! ### The poll of a waiting cycle -/

/-- A poll that finds a key: it is delivered, the wait ends and `PC` moves on (44 R195). -/
def State.delivered (s : State) (k : Nat) : State :=
  (((s.setKprev s.key).setReg s.wreg (BitVec.ofNat 8 k)).advance).setWait false

theorem State.changesOnly_setKprev (s : State) (k : Word) : ChangesOnly (fun p => p = .kprev) s (s.setKprev k) := by
  intro p hp
  cases p with
  | kprev => exact absurd rfl hp
  | _ => rfl

theorem State.changesOnly_setWait (s : State) (b : Bool) : ChangesOnly (fun p => p = .wait) s (s.setWait b) := by
  intro p hp
  cases p with
  | wait => exact absurd rfl hp
  | _ => rfl

theorem State.changesOnly_delivered (s : State) (k : Nat) :
    ChangesOnly (fun p => p = .v s.wreg ∨ p = .pc ∨ p = .wait ∨ p = .kprev) s (s.delivered k) := by
  refine ChangesOnly.trans ((s.changesOnly_setKprev s.key).mono fun _ hp => .inr (.inr (.inr hp))) ?_
  refine ChangesOnly.trans ((State.changesOnly_setReg_advance _ s.wreg (BitVec.ofNat 8 k)).mono fun _ => ?_)
    ((State.changesOnly_setWait _ false).mono fun _ hp => .inr (.inr (.inl hp)))
  exact Or.imp_right .inl

/-- Everything a poll can do. -/
theorem State.waitPoll_cases (s : State) :
    (s.candidates = 0 ∧ s.waitPoll = s.setKprev s.key) ∨
      ∃ k, lowestSet s.candidates = some k ∧ s.waitPoll = s.delivered k := by
  rcases hk : lowestSet s.candidates with _ | k
  · have hzero := lowestSet_none.1 hk
    exact .inl ⟨hzero, s.waitPoll_none hzero⟩
  · exact .inr ⟨k, rfl, s.waitPoll_some hk⟩

theorem State.changesOnly_waitPoll (s : State) :
    ChangesOnly (fun p => p = .v s.wreg ∨ p = .pc ∨ p = .wait ∨ p = .kprev) s s.waitPoll := by
  rcases s.waitPoll_cases with ⟨-, h⟩ | ⟨k, -, h⟩
  · rw [h]
    exact (s.changesOnly_setKprev s.key).mono fun _ hp => .inr (.inr (.inr hp))
  · rw [h]
    exact s.changesOnly_delivered k

theorem CycleNext.step_of_waiting {s : State} {rest : List Event} (hc : CycleNext s rest) (hf : s.fault = none)
    (hw : s.wait = true) : step s = .next (s.setPending rest).waitPoll :=
  hc.step_eq.trans ((s.setPending rest).cycle_waiting hf hw)

/-- Settles O13: a poll delivers the lowest candidate, or finds none and only takes the key sample. -/
theorem waitPollDeliversLowestKey : Obligations.WaitPollDeliversLowestKey := by
  intro s rest hc hf hw
  have hstep := hc.step_of_waiting hf hw
  refine ⟨rfl, fun hnone => ?_, fun k hk hset hlow => ?_⟩
  · rw [hstep, (s.setPending rest).waitPoll_none hnone]
    rfl
  · rw [(s.setPending rest).waitPoll_some (lowestSet_some.2 ⟨hk, hset, hlow⟩)] at hstep
    refine ⟨_, hstep, ?_, rfl, rfl, rfl, rfl, ?_⟩
    · rw [State.setWait_reg, State.advance_reg, State.setReg_reg, if_pos (s.setPending_wreg rest), BitVec.toNat_ofNat]
      omega
    · refine ((s.setPending rest).changesOnly_delivered k).of_setPending.mono fun p => ?_
      rintro ((h | h | h | h) | h) <;> simp [h]

/-- In edge mode a key that is down is no candidate once the sample has it. -/
theorem State.candidates_setKprev_key (s : State) (h : s.cfg.keyWaitEdge = true) :
    (s.setKprev s.key).candidates = 0 := by
  rw [State.candidates, State.setKprev_cfg, if_pos h]
  exact BitVec.and_not_self s.key

/-- Settles O14: a poll that leaves the engine waiting has taken the key sample, so in edge mode the next one finds no
candidate and takes the same sample. -/
theorem edgePollsOfSameKeysChangeNothing : Obligations.EdgePollsOfSameKeysChangeNothing := by
  intro s t hp hf hw hedge hstep hwait
  have hpoll : ∀ u : State, u.pending = [] → u.fault = none → u.wait = true → step u = .next u.waitPoll := by
    intro u hup huf huw
    rw [step, hup]
    exact u.cycle_waiting huf huw
  obtain rfl := next_unique (hpoll s hp hf hw) hstep
  rcases s.waitPoll_cases with ⟨-, h⟩ | ⟨k, -, h⟩
  · rw [h, hpoll (s.setKprev s.key) hp hf hw, State.waitPoll_none _ (s.candidates_setKprev_key hedge)]
    rfl
  · rw [h] at hwait
    cases hwait

/-! ### Tick -/

theorem State.tickDelay_dt (s : State) : s.tickDelay.dt.toNat = s.dt.toNat - 1 := by
  rw [State.tickDelay_eq, State.setDt_dt]
  split
  · bv_omega
  · omega

theorem State.changesOnly_tickDelay (s : State) : ChangesOnly (fun p => p = .dt) s s.tickDelay := by
  rw [State.tickDelay_eq]
  exact s.changesOnly_setDt _

@[simp] theorem State.startTone_tone (s : State) : s.startTone.tone = true := by
  unfold State.startTone
  split
  · assumption
  · rfl

@[simp] theorem State.startTone_tones (s : State) :
    s.startTone.tones = s.tones ++ if s.tone = false then [ToneSignal.start] else [] := by
  unfold State.startTone
  cases h : s.tone <;> simp

theorem State.changesOnly_emit (s : State) (p : ToneSignal) (level : Bool) :
    ChangesOnly (fun q => q = .tone ∨ q = .tones) s (s.emit p level) := by
  intro q hq
  cases q with
  | tone => exact absurd (.inl rfl) hq
  | tones => exact absurd (.inr rfl) hq
  | _ => rfl

theorem ChangesOnly.refl (w : Part → Prop) (s : State) : ChangesOnly w s s := by
  intro p _
  cases p <;> rfl

theorem State.changesOnly_startTone (s : State) : ChangesOnly (fun q => q = .tone ∨ q = .tones) s s.startTone := by
  unfold State.startTone
  split
  · exact .refl _ s
  · exact s.changesOnly_emit .start true

/-- A running sound timer at its last tick: it reaches 0 and the tone ends (60 R230). -/
theorem State.tickSound_last (s : State) (h : s.st.toNat = 1) :
    s.tickSound = (s.startTone.setSt (s.st - 1)).stopTone := by
  have hzero : s.st - 1 = 0 := by bv_omega
  rw [s.tickSound_running (by omega), if_pos hzero]

/-- A running sound timer with more ticks to come: the tone goes on (60 R230). -/
theorem State.tickSound_more (s : State) (h : 1 < s.st.toNat) : s.tickSound = s.startTone.setSt (s.st - 1) := by
  have hnonzero : s.st - 1 ≠ 0 := by bv_omega
  rw [s.tickSound_running (by omega), if_neg hnonzero]

theorem State.changesOnly_startTone_setSt (s : State) (b : Byte) :
    ChangesOnly (fun p => p = .st ∨ p = .tone ∨ p = .tones) s (s.startTone.setSt b) :=
  (s.changesOnly_startTone.mono fun _ => .inr).trans ((State.changesOnly_setSt _ b).mono fun _ => .inl)

/-- The sound timer's part of a tick: the timer down one step but not below 0, the tone on while there is more to come,
and the pulses that say so (60 R230 to R232). -/
theorem State.tickSound_spec (s : State) :
    s.tickSound.st.toNat = s.st.toNat - 1 ∧ s.tickSound.tone = decide (1 < s.st.toNat) ∧
      s.tickSound.tones = s.tones ++ (if 0 < s.st.toNat ∧ s.tone = false then [ToneSignal.start] else []) ++
        (if s.st.toNat = 1 ∨ (s.st.toNat = 0 ∧ s.tone = true) then [ToneSignal.stop] else []) ∧
      ChangesOnly (fun p => p = .st ∨ p = .tone ∨ p = .tones) s s.tickSound := by
  rcases Nat.lt_trichotomy s.st.toNat 1 with hzero | hone | hmore
  · have hst : s.st.toNat = 0 := Nat.lt_one_iff.1 hzero
    cases htone : s.tone with
    | false =>
      rw [s.tickSound_silent hst htone]
      exact ⟨by omega, by simp [htone, hst], by simp [hst], .refl _ s⟩
    | true =>
      rw [s.tickSound_stale hst htone]
      exact ⟨by simp [State.stopTone, hst], by simp [State.stopTone, hst], by simp [State.stopTone, hst],
        (s.changesOnly_emit .stop false).mono fun _ => .inr⟩
  · rw [s.tickSound_last hone]
    have hdown : (s.st - 1).toNat = s.st.toNat - 1 := by bv_omega
    exact ⟨hdown, by simp [State.stopTone, hone], by simp [State.stopTone, hone],
      (s.changesOnly_startTone_setSt _).trans ((State.changesOnly_emit _ .stop false).mono fun _ => .inr)⟩
  · rw [s.tickSound_more hmore]
    have hdown : (s.st - 1).toNat = s.st.toNat - 1 := by bv_omega
    have hpos : 0 < s.st.toNat := by omega
    have hnotlast : ¬ (s.st.toNat = 1 ∨ (s.st.toNat = 0 ∧ s.tone = true)) := by omega
    exact ⟨hdown, by simp [hmore], by simp [hpos, hnotlast], s.changesOnly_startTone_setSt _⟩

theorem State.changesOnly_tick (s : State) :
    ChangesOnly (fun p => p = .dt ∨ p = .st ∨ p = .tone ∨ p = .tones) s s.tick := by
  obtain ⟨-, -, -, hframe⟩ := s.tickDelay.tickSound_spec
  exact (s.changesOnly_tickDelay.mono fun _ => .inl).trans (hframe.mono fun _ => .inr)

/-- Settles O15: the delay timer's part touches `DT` alone, so the sound timer's part finds the rest as it was. -/
theorem tickCountsTimersAndDrivesTone : Obligations.TickCountsTimersAndDrivesTone := by
  intro s rest hp
  have hdelay := (s.setPending rest).changesOnly_tickDelay
  have hst : (s.setPending rest).tickDelay.st = s.st := hdelay .st (by simp)
  have htone : (s.setPending rest).tickDelay.tone = s.tone := hdelay .tone (by simp)
  have htones : (s.setPending rest).tickDelay.tones = s.tones := hdelay .tones (by simp)
  have hframe := (s.setPending rest).changesOnly_tick
  obtain ⟨hst', htone', htones', hsound⟩ := (s.setPending rest).tickDelay.tickSound_spec
  have hdt : (s.setPending rest).tick.dt = (s.setPending rest).tickDelay.dt := hsound .dt (by simp)
  rw [hst] at hst' htone'
  rw [hst, htone, htones] at htones'
  refine ⟨(s.setPending rest).tick, step_of_pending hp, ?_, hst', htone', htones', hframe .pending (by simp), ?_⟩
  · rw [hdt]
    exact (s.setPending rest).tickDelay_dt
  · refine hframe.of_setPending.mono fun p => ?_
    rintro ((h | h | h | h) | h) <;> simp [h]

/-! ### LoadROM -/

theorem romFits_iff (bytes : List Byte) : romFits bytes = true ↔ bytes.length ≤ 3584 := by
  rw [romFits, decide_eq_true_iff]
  simp only [Config.progBase, Config.ramSize]
  omega

theorem romFits_eq_false {bytes : List Byte} (h : 3584 < bytes.length) : romFits bytes = false := by
  rw [← Bool.not_eq_true, romFits_iff]
  omega

/-- An image that fits is found in RAM byte by byte (70 R253). -/
theorem State.read_loadRom {s : State} (hw : s.ram.wf) {bytes : List Byte} (hfit : bytes.length ≤ 3584) {k : Nat}
    (hk : k < bytes.length) : some ((s.loadRom bytes).ram.read (512 + k)) = bytes[k]? := by
  have hroom : Config.progBase + bytes.length ≤ Config.ramSize := by simp only [Config.progBase, Config.ramSize]; omega
  rw [s.loadRom_fits bytes ((romFits_iff bytes).2 hfit), State.setRam_ram, List.getElem?_eq_getElem hk,
    Memory.read_writeBytes_add hw hroom (List.getElem?_eq_getElem hk)]

theorem State.changesOnly_loadRom (s : State) {bytes : List Byte} (hfit : bytes.length ≤ 3584) :
    ChangesOnly (fun p => ∃ a, p = .ram a ∧ 512 ≤ a ∧ a < 512 + bytes.length) s (s.loadRom bytes) := by
  rw [s.loadRom_fits bytes ((romFits_iff bytes).2 hfit)]
  exact s.changesOnly_writeBytes 512 bytes

/-- Settles O19: an image that fits is one store of consecutive bytes; one that does not is refused before any byte is
copied. -/
theorem loadRomCopiesOrFaults : Obligations.LoadRomCopiesOrFaults := by
  intro s bytes rest hw hp
  constructor
  · intro hfit
    have hframe := (s.setPending rest).changesOnly_loadRom hfit
    exact ⟨_, step_of_pending hp, fun k hk => State.read_loadRom (s := s.setPending rest) hw hfit hk,
      hframe .pending (by simp), hframe.of_setPending⟩
  · intro hlarge hf
    have hload := (s.setPending rest).loadRom_tooLarge bytes (romFits_eq_false hlarge) hf
    calc step s = .next ((s.setPending rest).loadRom bytes) := step_of_pending hp
      _ = .next ((s.setPending rest).raise ⟨.romTooLarge, 0⟩) := by rw [hload]

/-! ### Reset -/

theorem State.changesOnly_resetEvent (s : State) :
    ChangesOnly (fun p => p = .cfg ∨ p = .draws ∨ p = .pending) State.reset s.resetEvent := by
  intro p hp
  cases p with
  | cfg => exact absurd (.inl rfl) hp
  | draws => exact absurd (.inr (.inl rfl)) hp
  | pending => exact absurd (.inr (.inr rfl)) hp
  | _ => rfl

/-- Settles O17: the event rebuilds the reset state around the three fields that it keeps. -/
theorem resetRestoresEveryElement : Obligations.ResetRestoresEveryElement := by
  intro s rest hp
  exact ⟨_, step_of_pending hp, (s.setPending rest).changesOnly_resetEvent, rfl, rfl, rfl⟩

/-- Settles O18: memory lists nothing, so it reads as the font table and zero elsewhere; the rest is written out. -/
theorem resetValues : Obligations.ResetValues := by
  have hregs : ∀ r : Reg, State.reset.reg r = 0 := fun r => Vector.getElem_replicate r.isLt
  have hzero : ∀ a, a < 80 ∨ 160 ≤ a → State.reset.ram.read a = 0 := by
    intro a ha
    have hout : ¬ (80 ≤ a ∧ a < 160) := by omega
    exact if_neg hout
  have hfont : ∀ k < 80, some (State.reset.ram.read (80 + k)) = fontTable[k]? := by decide
  exact ⟨hregs, rfl, rfl, rfl, rfl, rfl, hzero, hfont, fun i _ => fbGet_clear i, rfl, rfl, rfl, rfl, rfl, rfl⟩

/-- The word at the entry point after a `Reset` is 0000, which no row has (70 R251). -/
theorem State.cycle_resetEvent (s : State) : s.resetEvent.cycle = .next (s.resetEvent.raise ⟨.decodeError, 0⟩) := by
  have hpc : (512#16).toNat + 2 ≤ Config.ramSize := by decide
  have hword : s.resetEvent.wordAtPc = 0 := by
    change State.reset.wordAtPc = 0
    decide
  have hdec : decode s.resetEvent.wordAtPc = .decodeError s.resetEvent.wordAtPc := by rw [hword]; rfl
  rw [State.cycle_of_decodeError ⟨rfl, rfl⟩ hpc hdec, hword]

/-- Settles O20: the listed `Cycle` finds the engine running at the erased entry point. -/
theorem cycleAfterResetFaults : Obligations.CycleAfterResetFaults := by
  intro s rest hp
  have hc : CycleNext (s.setPending (.cycle :: rest)).resetEvent rest := .inr rfl
  exact ⟨_, _, step_of_pending hp, hc.step_eq.trans (s.setPending rest).cycle_resetEvent, rfl, rfl⟩

/-- Settles O21: after the `Reset` memory lists nothing, so the image reads back, and the load touches nothing but its
bytes. -/
theorem launchLoadsProgramAtEntryPoint : Obligations.LaunchLoadsProgramAtEntryPoint := by
  intro s bytes rest hfit hp
  have hload := (s.setPending rest).resetEvent.changesOnly_loadRom hfit
  have hframe := ((s.setPending rest).changesOnly_resetEvent.mono fun _ => Or.inr).trans (hload.mono fun _ => Or.inl)
  have hread := fun k hk => State.read_loadRom (s := (s.setPending rest).resetEvent) Memory.nil_wf hfit (k := k) hk
  have hp' : (s.setPending (.loadRom bytes :: rest)).resetEvent.pending = .loadRom bytes :: rest := rfl
  exact ⟨_, _, step_of_pending hp, step_of_pending hp', hload .pc (by simp),
    ⟨hload .fault (by simp), hload .wait (by simp)⟩, hread, hframe⟩

end Sys2Proof.Machine
end

section
/-!
PROOFS. Rules of the whole machine: the four invariants that every step keeps (10_state R26, R28, 20_memory R60,
60 R210, R231), the fault that stays (60 R217), and who may change what.
-/

namespace Sys2Proof.Machine

/-! ### Keeping a property -/

/-- A property is kept by a `Cycle` when the poll, the latching of a proper fault and every instruction keep it. -/
theorem State.cycle_keeps {P : State → Prop} {s t : State} (h : s.cycle = .next t) (hs : P s)
    (hpoll : s.wait = true → P s.waitPoll) (hraise : ∀ f : FaultRecord, f.Proper → P (s.raise f))
    (hexec : ∀ i, s.wait = false → s.pc.toNat + 2 ≤ Config.ramSize → exec i s = .next t → P t) : P t := by
  rcases State.cycle_cases h with ⟨-, rfl⟩ | ⟨-, hw, rfl⟩ | ⟨-, -, -, rfl⟩ | ⟨-, -, -, hdec, rfl⟩ |
    ⟨-, hw, hpc, i, -, hi⟩
  · exact hs
  · exact hpoll hw
  · exact hraise _ (outOfRangeAt_proper s.pc)
  · exact hraise ⟨.decodeError, s.wordAtPc⟩ ((legal_eq_false_iff _).2 hdec)
  · exact hexec i hw hpc hi

/-- A property of the core is kept by a step when each event keeps it. -/
theorem step_keeps {P : State → Prop} (hpending : ∀ s l, P s → P (s.setPending l))
    (hcycle : ∀ s t, P s → s.cycle = .next t → P t) (htick : ∀ s, P s → P s.tick)
    (hkey : ∀ s k, P s → P (s.keyRefresh k)) (hreset : ∀ s, P s → P s.resetEvent)
    (hload : ∀ s bytes, P s → P (s.loadRom bytes)) {s t : State} (hs : P s) (h : step s = .next t) : P t := by
  rcases step_cases h with (⟨-, hc⟩ | ⟨rest, -, hc⟩) | ⟨rest, -, rfl⟩ | ⟨k, rest, -, rfl⟩ | ⟨rest, -, rfl⟩ |
    ⟨bytes, rest, -, rfl⟩
  · exact hcycle s t hs hc
  · exact hcycle _ t (hpending s rest hs) hc
  · exact htick _ (hpending s rest hs)
  · exact hkey _ k (hpending s rest hs)
  · exact hreset _ (hpending s rest hs)
  · exact hload _ bytes (hpending s rest hs)

/-- Everything a `LoadROM` can do. -/
theorem State.loadRom_cases (s : State) (bytes : List Byte) :
    (bytes.length ≤ 3584 ∧ s.loadRom bytes = s.setRam (s.ram.writeBytes 512 bytes)) ∨
      (s.fault = none ∧ s.loadRom bytes = s.raise ⟨.romTooLarge, 0⟩) ∨ (s.fault ≠ none ∧ s.loadRom bytes = s) := by
  rcases hfit : romFits bytes with _ | _
  · by_cases hf : s.fault = none
    · exact .inr (.inl ⟨hf, s.loadRom_tooLarge bytes hfit hf⟩)
    · exact .inr (.inr ⟨hf, s.loadRom_faulted bytes hfit hf⟩)
  · exact .inl ⟨(romFits_iff bytes).1 hfit, s.loadRom_fits bytes hfit⟩

/-! ### Memory stays canonical -/

/-- What an instruction makes of RAM: nothing, or a store through `I` inside RAM (20_memory R72). -/
theorem exec_ram {i : Instr} {s t : State} (h : exec i s = .next t) :
    t.ram = s.ram ∨ ∃ bs, s.base + bs.length ≤ Config.ramSize ∧ t.ram = s.ram.writeBytes s.base bs := by
  rcases hf : faultOf i s with _ | f
  · have hin := inRam_of_faultOf_eq_none hf
    cases i with
    | ret =>
      obtain ⟨a, l, hs⟩ := faultOf_ret_eq_none hf
      obtain rfl := next_unique (exec_ret_of_stack_cons hs) h
      exact .inl rfl
    | call nnn =>
      obtain rfl := next_unique (exec_call_of_room nnn (faultOf_call_eq_none hf)) h
      exact .inl rfl
    | draw | regload =>
      obtain rfl := next_unique (s.complete_checked _ hin) h
      exact .inl rfl
    | bcd x =>
      obtain rfl := next_unique (s.complete_checked _ hin) h
      exact .inr ⟨bcdDigits (s.reg x), hin.resolve_left (Nat.succ_ne_zero 2), rfl⟩
    | regdump x =>
      obtain rfl := next_unique (s.complete_checked _ hin) h
      refine .inr ⟨s.bulkRegs x, ?_, rfl⟩
      rw [State.bulkRegs_length]
      exact hin.resolve_left (Nat.succ_ne_zero _)
    | _ =>
      obtain rfl := Host.Outcome.next.inj h
      exact .inl rfl
  · obtain rfl := next_unique (exec_of_faultOf_eq_some hf) h
    exact .inl rfl

theorem State.waitPoll_ram (s : State) : s.waitPoll.ram = s.ram := by
  rcases s.waitPoll_cases with ⟨-, h⟩ | ⟨k, -, h⟩ <;> rw [h] <;> rfl

theorem State.startTone_ram (s : State) : s.startTone.ram = s.ram := by
  unfold State.startTone
  split <;> rfl

theorem State.stopAtZero_ram (s : State) : s.stopAtZero.ram = s.ram := by
  unfold State.stopAtZero
  split <;> rfl

theorem State.tickSound_ram (s : State) : s.tickSound.ram = s.ram := by
  unfold State.tickSound
  split
  · rw [State.stopAtZero_ram, State.setSt_ram, State.startTone_ram]
  · split <;> rfl

theorem State.tick_ram (s : State) : s.tick.ram = s.ram := by
  rw [State.tick, State.tickSound_ram, State.tickDelay_eq, State.setDt_ram]

/-- Settles O22: RAM changes only by stores whose bytes all lie in it, and each keeps the form. -/
theorem stepKeepsMemoryCanonical : Obligations.StepKeepsMemoryCanonical := by
  intro s t hs h
  refine step_keeps (P := fun s => s.ram.wf) (fun _ _ => id) ?cycle ?tick (fun _ _ => id) (fun _ _ => Memory.nil_wf)
    ?load hs h
  case cycle =>
    intro s t hs h
    refine State.cycle_keeps (P := fun s => s.ram.wf) h hs (fun _ => s.waitPoll_ram ▸ hs) (fun _ _ => hs) ?_
    intro i _ _ hexec
    rcases exec_ram hexec with hram | ⟨bs, hfit, hram⟩
    · exact hram ▸ hs
    · exact hram ▸ Memory.writeBytes_wf hs _ bs (.inl hfit)
  case tick => exact fun s hs => s.tick_ram ▸ hs
  case load =>
    intro s bytes hs
    rcases s.loadRom_cases bytes with ⟨hfit, h⟩ | ⟨-, h⟩ | ⟨-, h⟩ <;> rw [h]
    · exact Memory.writeBytes_wf hs _ bytes (.inl (by simp only [Config.ramSize]; omega))
    · exact hs
    · exact hs

/-! ### Control state stays in its bounds -/

theorem writes_stack {i : Instr} {s : State} (h : Writes i s .stack) : i = .ret ∨ ∃ nnn, i = .call nnn := by
  cases i <;> simp_all [Writes]

theorem writes_wait {i : Instr} {s : State} (h : Writes i s .wait) : ∃ x, i = .loadKey x := by
  cases i <;> simp_all [Writes]

theorem ControlInv.of_eq {s t : State} (hs : ControlInv s) (hstack : t.stack = s.stack) (hpc : t.pc = s.pc)
    (hwait : t.wait = s.wait) : ControlInv t := by
  rwa [ControlInv, State.sp, hstack, hpc, hwait]

section
variable {i : Instr} {s t : State} (hpc : s.pc.toNat + 2 ≤ Config.ramSize) (h : exec i s = .next t)
include hpc h

/-- No instruction that can be fetched puts `PC` above 4350, the greatest target of `JUMP V0,nnn` (10_state R26). -/
theorem exec_pc_le (hstack : ∀ a ∈ s.stack, a.toNat ≤ 4096) : t.pc.toNat ≤ 4350 := by
  have hpc' : s.pc.toNat + 2 ≤ 4096 := hpc
  have hnext : (s.pc + 2).toNat ≤ 4350 := by bv_omega
  have hskip : ∀ c : Bool, (s.skipIf c).pc.toNat ≤ 4350 := by
    intro c
    rw [State.skipIf_pc]
    split <;> bv_omega
  have haddr : ∀ nnn : Addr12, (zext16 nnn).toNat ≤ 4350 := by
    intro nnn
    have := nnn.isLt
    rw [zext16_toNat]
    omega
  rcases hf : faultOf i s with _ | f
  · have hin := inRam_of_faultOf_eq_none hf
    cases i
    case ret =>
      obtain ⟨a, l, hs⟩ := faultOf_ret_eq_none hf
      obtain rfl := next_unique (exec_ret_of_stack_cons hs) h
      exact (hstack a (by simp [hs])).trans (by decide)
    case call nnn =>
      obtain rfl := next_unique (exec_call_of_room nnn (faultOf_call_eq_none hf)) h
      exact haddr nnn
    case draw | bcd | regdump | regload =>
      obtain rfl := next_unique (s.complete_checked _ hin) h
      exact hnext
    all_goals obtain rfl := Host.Outcome.next.inj h
    case jump nnn => exact haddr nnn
    case jumpV0 nnn =>
      have hb := (s.reg 0).isLt
      have hn := nnn.isLt
      rw [State.setPc_pc, toNat_ofNat_byte_add_addr]
      omega
    case seImm | sneImm | seReg | sneReg | skp | sknp => exact hskip _
    case loadKey => exact (Nat.le_add_right _ 2).trans (hpc.trans (by decide))
    all_goals exact hnext
  · obtain rfl := next_unique (exec_of_faultOf_eq_some hf) h
    exact (Nat.le_add_right _ 2).trans (hpc.trans (by decide))

/-- The stack stays in its bounds: `RETURN` takes an entry off, and `CALL` adds one below 16, the address after a
fetchable instruction (10_state R28). -/
theorem exec_stack_le (hsp : s.sp ≤ Config.stackDepth) (hstack : ∀ a ∈ s.stack, a.toNat ≤ 4096) :
    t.sp ≤ Config.stackDepth ∧ ∀ a ∈ t.stack, a.toNat ≤ 4096 := by
  rcases hf : faultOf i s with _ | f
  · by_cases hw : Writes i s .stack
    · rcases writes_stack hw with rfl | ⟨nnn, rfl⟩
      · obtain ⟨a, l, hs⟩ := faultOf_ret_eq_none hf
        obtain rfl := next_unique (exec_ret_of_stack_cons hs) h
        rw [State.sp_of_stack_cons hs] at hsp
        exact ⟨Nat.le_of_succ_le hsp, fun b hb => hstack b (by rw [hs]; exact .tail a hb)⟩
      · have hroom := faultOf_call_eq_none hf
        obtain rfl := next_unique (exec_call_of_room nnn hroom) h
        refine ⟨hroom, fun a ha => ?_⟩
        rcases List.mem_cons.1 ha with rfl | ha
        · have hpc' : s.pc.toNat + 2 ≤ 4096 := hpc
          bv_omega
        · exact hstack a ha
    · have hkept : t.stack = s.stack := exec_changes hf h .stack hw
      rw [State.sp, hkept]
      exact ⟨hsp, hstack⟩
  · obtain rfl := next_unique (exec_of_faultOf_eq_some hf) h
    exact ⟨hsp, hstack⟩

end

/-- An instruction that enters the wait leaves `PC` at itself (44 R194). -/
theorem exec_wait_pc {i : Instr} {s t : State} (h : exec i s = .next t) (hw : s.wait = false) (ht : t.wait = true) :
    t.pc = s.pc := by
  rcases exec_cases h with hframe | ⟨f, -, rfl⟩
  · by_cases hwr : Writes i s .wait
    · obtain ⟨x, rfl⟩ := writes_wait hwr
      exact hframe .pc (by simp [Writes])
    · have hkept : t.wait = s.wait := hframe .wait hwr
      rw [hkept, hw] at ht
      cases ht
  · rfl

theorem State.waitPoll_controlInv {s : State} (hs : ControlInv s) (hw : s.wait = true) : ControlInv s.waitPoll := by
  obtain ⟨hsp, hstack, hpc, hwait⟩ := hs
  rcases s.waitPoll_cases with ⟨-, h⟩ | ⟨k, -, h⟩
  · exact h ▸ ControlInv.of_eq ⟨hsp, hstack, hpc, hwait⟩ rfl rfl rfl
  · have hnext : (s.pc + 2).toNat ≤ 4350 := by
      have := hwait hw
      bv_omega
    exact h ▸ ⟨hsp, hstack, hnext, nofun⟩

theorem reset_controlInv : ControlInv State.reset :=
  ⟨by decide, nofun, by decide, nofun⟩

/-- Settles O23: an instruction runs only from an address it could be fetched from, which bounds the `PC` it leaves, the
address it pushes and the place where it waits. -/
theorem stepKeepsControlBounds : Obligations.StepKeepsControlBounds := by
  intro s t hs h
  refine step_keeps (fun _ _ hs => hs.of_eq rfl rfl rfl) ?cycle ?tick (fun _ _ hs => hs.of_eq rfl rfl rfl)
    (fun _ _ => reset_controlInv.of_eq rfl rfl rfl) ?load hs h
  case cycle =>
    intro s t hs h
    refine State.cycle_keeps h hs (State.waitPoll_controlInv hs) (fun _ _ => hs.of_eq rfl rfl rfl) ?_
    intro i hw hpc hexec
    obtain ⟨hsp, hstack, -, -⟩ := hs
    obtain ⟨hsp', hstack'⟩ := exec_stack_le hpc hexec hsp hstack
    refine ⟨hsp', hstack', exec_pc_le hpc hexec hstack, fun ht => ?_⟩
    rw [exec_wait_pc hexec hw ht]
    exact Nat.le_of_add_le_add_right hpc
  case tick =>
    intro s hs
    have hframe := s.changesOnly_tick
    exact hs.of_eq (hframe .stack (by simp)) (hframe .pc (by simp)) (hframe .wait (by simp))
  case load =>
    intro s bytes hs
    rcases s.loadRom_cases bytes with ⟨-, h⟩ | ⟨-, h⟩ | ⟨-, h⟩ <;> rw [h] <;> exact hs.of_eq rfl rfl rfl

/-! ### Tone pulses alternate -/

theorem ToneInv.of_eq {s t : State} (hs : ToneInv s) (htone : t.tone = s.tone) (htones : t.tones = s.tones) :
    ToneInv t := by
  rwa [ToneInv, htone, htones]

theorem replayTones_append {level level' : Bool} {l : List ToneSignal} (l' : List ToneSignal)
    (h : replayTones level l = some level') : replayTones level (l ++ l') = replayTones level' l' := by
  induction l generalizing level with
  | nil => cases h; rfl
  | cons p l ih =>
    cases level <;> cases p
    · exact ih h
    · cases h
    · cases h
    · exact ih h

theorem reset_toneInv : ToneInv State.reset := rfl

theorem State.waitPoll_toneInv {s : State} (hs : ToneInv s) : ToneInv s.waitPoll :=
  hs.of_eq (s.changesOnly_waitPoll .tone (by simp)) (s.changesOnly_waitPoll .tones (by simp))

/-- A tick goes on from the level that the pulses imply: it starts a silent tone, stops one that is on, or both. -/
theorem State.tick_toneInv {s : State} (hs : ToneInv s) : ToneInv s.tick := by
  have hdelay := s.changesOnly_tickDelay
  have htone : s.tickDelay.tone = s.tone := hdelay .tone (by simp)
  have htones : s.tickDelay.tones = s.tones := hdelay .tones (by simp)
  obtain ⟨-, htone', htones', -⟩ := s.tickDelay.tickSound_spec
  rw [ToneInv, State.tick, htone', htones', htones, htone, List.append_assoc, replayTones_append _ hs]
  rcases Nat.lt_trichotomy s.tickDelay.st.toNat 1 with hzero | hone | hmore
  · cases s.tone <;> simp [Nat.lt_one_iff.1 hzero, replayTones]
  · cases s.tone <;> simp [hone, replayTones]
  · have hpos : 0 < s.tickDelay.st.toNat := by omega
    have hnotlast : s.tickDelay.st.toNat ≠ 1 := by omega
    cases s.tone <;> simp [hmore, hpos, hpos.ne', hnotlast, replayTones]

/-- Settles O24: only a `Tick` emits pulses, and `Reset` empties the record with the tone off. -/
theorem stepKeepsTonePulsesAlternating : Obligations.StepKeepsTonePulsesAlternating := by
  intro s t hs h
  refine step_keeps (P := ToneInv) (fun _ _ hs => hs.of_eq rfl rfl) ?cycle (fun _ => State.tick_toneInv)
    (fun _ _ hs => hs.of_eq rfl rfl) (fun _ _ => reset_toneInv.of_eq rfl rfl) ?load hs h
  case cycle =>
    intro s t hs h
    refine State.cycle_keeps h hs (fun _ => State.waitPoll_toneInv hs) (fun _ _ => hs.of_eq rfl rfl) ?_
    intro i _ _ hexec
    rcases exec_cases hexec with hframe | ⟨f, -, rfl⟩
    · exact hs.of_eq (hframe .tone (by cases i <;> simp [Writes])) (hframe .tones (by cases i <;> simp [Writes]))
    · exact hs.of_eq rfl rfl
  case load =>
    intro s bytes hs
    rcases s.loadRom_cases bytes with ⟨-, h⟩ | ⟨-, h⟩ | ⟨-, h⟩ <;> rw [h] <;> exact hs.of_eq rfl rfl

/-! ### Faults are proper, and stay -/

theorem FaultInv.of_eq {s t : State} (hs : FaultInv s) (hfault : t.fault = s.fault) : FaultInv t := by
  rwa [FaultInv, hfault]

theorem State.raise_faultInv (s : State) {f : FaultRecord} (hf : f.Proper) : FaultInv (s.raise f) := by
  intro g hg
  cases hg
  exact hf

/-- Settles O25: a fault is latched by the fetch, the decoder, an instruction or a `LoadROM`, each a proper one. -/
theorem stepKeepsFaultsProper : Obligations.StepKeepsFaultsProper := by
  intro s t hs h
  refine step_keeps (fun _ _ hs => hs.of_eq rfl) ?cycle (fun s hs => hs.of_eq (s.changesOnly_tick .fault (by simp)))
    (fun _ _ hs => hs.of_eq rfl) (fun _ _ => nofun) ?load hs h
  case cycle =>
    intro s t hs h
    refine State.cycle_keeps h hs (fun _ => hs.of_eq (s.changesOnly_waitPoll .fault (by simp)))
      (fun _ => s.raise_faultInv) ?_
    intro i _ _ hexec
    rcases exec_cases hexec with hframe | ⟨f, hf, rfl⟩
    · exact hs.of_eq (hframe .fault (not_writes_fault i s))
    · exact s.raise_faultInv hf
  case load =>
    intro s bytes hs
    rcases s.loadRom_cases bytes with ⟨-, h⟩ | ⟨-, h⟩ | ⟨-, h⟩ <;> rw [h]
    · exact hs.of_eq rfl
    · exact s.raise_faultInv rfl
    · exact hs

/-- Settles O26: nothing is listed in RAM, on the stack or among the pulses, and no fault is latched. -/
theorem resetMeetsInvariants : Obligations.ResetMeetsInvariants :=
  ⟨Memory.nil_wf, reset_controlInv, reset_toneInv, nofun⟩

/-- Settles O10: a `Cycle` does nothing while faulted, and of the other events only a `LoadROM` can raise a fault, which
it does not while one is latched. -/
theorem faultStaysUntilReset : Obligations.FaultStaysUntilReset := by
  constructor
  · intro s rest hc hf
    exact hc.step_eq.trans ((s.setPending rest).cycle_faulted (Option.isSome_iff_ne_none.2 hf))
  · intro s t f hf hreset h
    have hsome : s.fault.isSome := Option.isSome_of_eq_some hf
    rcases step_cases h with (⟨-, hc⟩ | ⟨rest, -, hc⟩) | ⟨rest, -, rfl⟩ | ⟨k, rest, -, rfl⟩ | ⟨rest, hp, -⟩ |
      ⟨bytes, rest, -, rfl⟩
    · obtain rfl := next_unique (s.cycle_faulted hsome) hc
      exact hf
    · obtain rfl := next_unique ((s.setPending rest).cycle_faulted hsome) hc
      exact hf
    · have hkept : (s.setPending rest).tick.fault = s.fault := (s.setPending rest).changesOnly_tick .fault (by simp)
      exact hkept.trans hf
    · exact hf
    · exact absurd ⟨rest, hp⟩ hreset
    · rcases (s.setPending rest).loadRom_cases bytes with ⟨-, hload⟩ | ⟨hnone, -⟩ | ⟨-, hload⟩
      · rw [hload]; exact hf
      · rw [State.setPending_fault, hf] at hnone
        cases hnone
      · rw [hload]; exact hf

/-! ### Who may change what -/

theorem ChangesOnly.of_not_same {w : Part → Prop} {s t : State} (h : ChangesOnly w s t) {p : Part}
    (hp : ¬ p.same s t) : w p :=
  by_contra fun hw => hp (h p hw)

theorem State.changesOnly_raise (s : State) (f : FaultRecord) : ChangesOnly (fun p => p = .fault) s (s.raise f) := by
  intro p hp
  cases p with
  | fault => exact absurd rfl hp
  | _ => rfl

theorem State.changesOnly_keyRefresh (s : State) (k : Word) : ChangesOnly (fun p => p = .key) s (s.keyRefresh k) := by
  intro p hp
  cases p with
  | key => exact absurd rfl hp
  | _ => rfl

/-- What a step may change, by who changes it: the schedule and the fault latch, a poll, the instruction that the step
executes, and each event but `Reset`. -/
def StepWrites (s : State) (p : Part) : Prop :=
  p = .pending ∨ p = .fault ∨ (p = .v s.wreg ∨ p = .pc ∨ p = .wait ∨ p = .kprev) ∨
  (∃ i, Executes s i ∧ Writes i s p) ∨
  ((∃ rest, s.pending = .tick :: rest) ∧ (p = .dt ∨ p = .st ∨ p = .tone ∨ p = .tones)) ∨
  ((∃ k rest, s.pending = .keyRefresh k :: rest) ∧ p = .key) ∨
  ((∃ bytes rest, s.pending = .loadRom bytes :: rest) ∧ ∃ a, p = .ram a)

theorem writes_setPending (i : Instr) (s : State) (l : List Event) : Writes i (s.setPending l) = Writes i s := by
  cases i <;> rfl

/-- A `Cycle` makes the changes of a poll, of a fault or of the instruction it executes. -/
theorem CycleNext.changesOnly {s t : State} {rest : List Event} (hc : CycleNext s rest) (h : step s = .next t) :
    ChangesOnly (StepWrites s) s t := by
  rw [hc.step_eq] at h
  have hraise : ∀ f, ChangesOnly (StepWrites s) s ((s.setPending rest).raise f) := fun f =>
    ((s.setPending rest).changesOnly_raise f).of_setPending.mono fun p => by
      rintro (hp | hp) <;> simp [StepWrites, hp]
  rcases State.cycle_cases h with ⟨-, rfl⟩ | ⟨-, -, rfl⟩ | ⟨-, -, -, rfl⟩ | ⟨-, -, -, -, rfl⟩ |
    ⟨hf, hw, hpc, i, hdec, hexec⟩
  · exact (s.changesOnly_setPending rest).mono fun _ => .inl
  · refine (s.setPending rest).changesOnly_waitPoll.of_setPending.mono fun p => ?_
    rintro (hp | hp)
    · exact .inr (.inr (.inl hp))
    · exact .inl hp
  · exact hraise _
  · exact hraise _
  · rcases exec_cases hexec with hframe | ⟨f, -, rfl⟩
    · refine hframe.of_setPending.mono fun p => ?_
      rw [writes_setPending]
      rintro (hp | hp)
      · exact .inr (.inr (.inr (.inl ⟨i, ⟨⟨rest, hc⟩, ⟨hf, hw⟩, hpc, hdec⟩, hp⟩)))
      · exact .inl hp
    · exact hraise f

/-- Everything a step can change, but for a `Reset`. -/
theorem step_changesOnly {s t : State} (h : step s = .next t) (hreset : ¬ ResetNext s) :
    ChangesOnly (StepWrites s) s t := by
  rcases step_cases h with (⟨hp, -⟩ | ⟨rest, hp, -⟩) | ⟨rest, hp, rfl⟩ | ⟨k, rest, hp, rfl⟩ | ⟨rest, hp, -⟩ |
    ⟨bytes, rest, hp, rfl⟩
  · exact CycleNext.changesOnly (.inl ⟨hp, rfl⟩) h
  · exact CycleNext.changesOnly (.inr hp) h
  · refine (s.setPending rest).changesOnly_tick.of_setPending.mono fun p => ?_
    rintro (hw | hw) <;> simp [StepWrites, hp, hw]
  · refine ((s.setPending rest).changesOnly_keyRefresh k).of_setPending.mono fun p => ?_
    rintro (hw | hw) <;> simp [StepWrites, hp, hw]
  · exact absurd ⟨rest, hp⟩ hreset
  · rcases (s.setPending rest).loadRom_cases bytes with ⟨hfit, -⟩ | ⟨-, h⟩ | ⟨-, h⟩
    · refine ((s.setPending rest).changesOnly_loadRom hfit).of_setPending.mono fun p => ?_
      rintro (⟨a, hw, -⟩ | hw) <;> simp [StepWrites, hp, hw]
    · rw [h]
      refine ((s.setPending rest).changesOnly_raise _).of_setPending.mono fun p => ?_
      rintro (hw | hw) <;> simp [StepWrites, hw]
    · rw [h]
      exact (s.changesOnly_setPending rest).mono fun _ => .inl

theorem writes_fb {i : Instr} {s : State} (h : Writes i s .fb) : i = .clear ∨ ∃ x y n, i = .draw x y n := by
  cases i <;> simp_all [Writes]

theorem writes_dt {i : Instr} {s : State} (h : Writes i s .dt) : ∃ x, i = .loadDt x := by
  cases i <;> simp_all [Writes]

theorem writes_st {i : Instr} {s : State} (h : Writes i s .st) : ∃ x, i = .loadSt x := by
  cases i <;> simp_all [Writes]

theorem writes_ram {i : Instr} {s : State} {a : Nat} (h : Writes i s (.ram a)) :
    (∃ x, i = .bcd x) ∨ ∃ x, i = .regdump x := by
  cases i <;> simp_all [Writes]

/-- The parts that no instruction writes: the parameters, the latches of the keys and of the tone (10_state R46). -/
theorem not_writes_cfg_key_tone (i : Instr) (s : State) :
    ¬ Writes i s .cfg ∧ ¬ Writes i s .key ∧ ¬ Writes i s .tone := by
  cases i <;> simp [Writes]

/-- Settles O29: each element is in the rows of the named instructions and among the changes of the named events
only. -/
theorem onlyNamedEventsChangeEachElement : Obligations.OnlyNamedEventsChangeEachElement := by
  intro s t _ h hreset
  have hframe := step_changesOnly h hreset
  have hnot := fun i => not_writes_cfg_key_tone i s
  refine ⟨fun hne => ?fb, fun hne => ?key, fun hne => ?tone, fun hne => ?dt, fun hne => ?st, fun hne => ?stack,
    fun a hne => ?ram, ?cfg⟩
  case fb =>
    obtain ⟨i, hi, hw⟩ : ∃ i, Executes s i ∧ Writes i s .fb := by
      simpa [StepWrites] using hframe.of_not_same (p := .fb) hne
    rcases writes_fb hw with rfl | ⟨x, y, n, rfl⟩
    · exact .inl hi
    · exact .inr ⟨x, y, n, hi⟩
  case key => simpa [StepWrites, hnot] using hframe.of_not_same (p := .key) hne
  case tone => simpa [StepWrites, hnot] using hframe.of_not_same (p := .tone) hne
  case dt =>
    have hw : (∃ i, Executes s i ∧ Writes i s .dt) ∨ ∃ rest, s.pending = .tick :: rest := by
      simpa [StepWrites] using hframe.of_not_same (p := .dt) hne
    rcases hw with ⟨i, hi, hw⟩ | htick
    · obtain ⟨x, rfl⟩ := writes_dt hw
      exact .inr ⟨x, hi⟩
    · exact .inl htick
  case st =>
    have hw : (∃ i, Executes s i ∧ Writes i s .st) ∨ ∃ rest, s.pending = .tick :: rest := by
      simpa [StepWrites] using hframe.of_not_same (p := .st) hne
    rcases hw with ⟨i, hi, hw⟩ | htick
    · obtain ⟨x, rfl⟩ := writes_st hw
      exact .inr ⟨x, hi⟩
    · exact .inl htick
  case stack =>
    obtain ⟨i, hi, hw⟩ : ∃ i, Executes s i ∧ Writes i s .stack := by
      simpa [StepWrites] using hframe.of_not_same (p := .stack) hne
    rcases writes_stack hw with rfl | ⟨nnn, rfl⟩
    · exact .inl hi
    · exact .inr ⟨nnn, hi⟩
  case ram =>
    have hw : (∃ i, Executes s i ∧ Writes i s (.ram a)) ∨ ∃ bytes rest, s.pending = .loadRom bytes :: rest := by
      simpa [StepWrites] using hframe.of_not_same (p := .ram a) hne
    rcases hw with ⟨i, hi, hw⟩ | hload
    · rcases writes_ram hw with ⟨x, rfl⟩ | ⟨x, rfl⟩
      · exact .inr (.inl ⟨x, hi⟩)
      · exact .inr (.inr ⟨x, hi⟩)
    · exact .inl hload
  case cfg => exact hframe .cfg (by simp [StepWrites, hnot])

end Sys2Proof.Machine
end
